-- ==== Sys2Proof/Word.lean ====
section
/-! DEFINITION. The word of the part: 16 bits, bit 0 the least significant (00_scope.md, section 1.6). -/

namespace Sys2Proof

/-- Every host access, every shared-memory location and every trunk payload unit is one word. -/
abbrev Word := BitVec 16

/-- The time tag of the time base (R48). -/
abbrev TimeTag := BitVec 32

/-- A host word address on the 15 address lines (R163). -/
abbrev HostAddress := BitVec 15

end Sys2Proof
end

