-- ==== Sys2Proof/Syntax.lean ====
section
/-! DEFINITION. The commands the part takes: one constructor for each row of spec/opcode_table.json. The table gives
its rows no operand fields; a constructor carries what the row's rule names. -/

namespace Sys2Proof

/-- The two trunks (R131). Bank and trunk operands use 0 for A and 1 for B (Table 11-6). -/
inductive TrunkId where
  | a
  | b
deriving DecidableEq, Repr

/-- A host bus cycle: a read, or a write of one word (R163). -/
inductive Access where
  | read
  | write (value : Word)
deriving DecidableEq, Repr

/-- The two registers that place the event ring (R147, R148). -/
inductive RingRegister where
  | base
  | size
deriving DecidableEq, Repr

/-- The two words of the station window that the host may write (R80). -/
inductive StationWord where
  | expectedIdentity
  | preferredTrunk
deriving DecidableEq, Repr

/-- One bit time of a line (R178): whether its boundary and its middle carry a transition, and whether one stands
anywhere else. The levels carry no meaning of their own, so the transitions are the whole signal. -/
structure BitTime where
  boundary : Bool
  middle : Bool
  stray : Bool
deriving DecidableEq, Repr

/-- What a receiver hears that is not an accepted answer (R132): a frame, or what is left of one, that goes on for so
many bit times from now and whose end then is the end of the last frame on the line, or noise, which only breaks the
quiet. -/
inductive Activity where
  | frame (bits : Nat)
  | noise
deriving DecidableEq, Repr

/-- Activity that the receiver of a trunk hears (R132). -/
structure Heard where
  trunk : TrunkId
  activity : Activity
deriving DecidableEq, Repr

/-- The commands, in the order of spec/opcode_table.json. -/
inductive Instr where
  /-- START: a host write of its code to COMMAND (R25). -/
  | start
  /-- STEP (R26). -/
  | step
  /-- STOP_ROUND (R27). -/
  | stopRound
  /-- STOP_SWEEP (R27). -/
  | stopSweep
  /-- ABORT (R29). -/
  | abort
  /-- ABORT_COMPLETE: the cut attempt's trunk is quiet, or the bound is reached (R29). -/
  | abortComplete
  /-- CLEAR_HALT (R30). -/
  | clearHalt
  /-- ENGINE_RESET (R46). -/
  | engineReset
  /-- ENGINE_RESET_COMPLETE (R46). -/
  | engineResetComplete
  /-- SWITCH_PLAN: the operand stands in CMD ARG 0 (R15). -/
  | switchPlan
  /-- SWITCH_PLAN_CANCEL: SWITCH PLAN with operand CANCEL (R17). -/
  | switchPlanCancel
  /-- VALIDATE_PLAN: the operand stands in CMD ARG 0 (R14). -/
  | validatePlan
  /-- PLAN_VALIDATION_DONE: the end of a validation (R16). -/
  | planValidationDone
  /-- STATION_ENABLE: station in CMD ARG 0, trunk in CMD ARG 1 (R82). -/
  | stationEnable
  /-- STATION_DISABLE: station in CMD ARG 0 (R83). -/
  | stationDisable
  /-- POINT_HOLD: point in CMD ARG 0 (R110, R111). -/
  | pointHold
  /-- POINT_RELEASE: point in CMD ARG 0 (R110, R112). -/
  | pointRelease
  /-- POINT_COMMIT: point in CMD ARG 0 (R110, R113). -/
  | pointCommit
  /-- POINT_COMMAND_READ_DONE: the record read of a point command completes (R110). -/
  | pointCommandReadDone
  /-- DEMAND_POST: point, priority, deadline and tag in CMD ARG 0 to 3 (R119). -/
  | demandPost
  /-- DEMAND_POST_CHECK_DONE: the record check of a post ends (R120). -/
  | demandPostCheckDone
  /-- DEMAND_CANCEL: tag in CMD ARG 0 (R127). -/
  | demandCancel
  /-- TRUNK_TRAIN: trunk in CMD ARG 0 (R133). -/
  | trunkTrain
  /-- TRUNK_OFF: trunk in CMD ARG 0 (R134). -/
  | trunkOff
  /-- UNDEFINED_COMMAND: a write to COMMAND of a code that names no command (R173). -/
  | undefinedCommand (code : Word)
  /-- COMMAND_OVERRUN: a write to COMMAND while the Command Unit is BUSY (R173). -/
  | commandOverrun (code : Word)
  /-- PIN_RESET: the RESET input is asserted (R176). -/
  | pinReset
  /-- RESET_RELEASE: the RESET input is released (R176). -/
  | resetRelease
  /-- TIME_LOW_READ (R167). -/
  | timeLowRead
  /-- RING_READ_INDEX_WRITE (R150). -/
  | ringReadIndexWrite (value : Word)
  /-- RING_GEOMETRY_WRITE (R148). -/
  | ringGeometryWrite (register : RingRegister) (value : Word)
  /-- IRQ_CAUSE_CLEAR: a host write to IRQ CAUSE (R159). -/
  | irqCauseClear (value : Word)
  /-- HOST_ERROR_CLEAR: a host write to HOST ERROR (R162). -/
  | hostErrorClear (value : Word)
  /-- STATION_CONFIG_WRITE: a host write to station window word 0 or 1 (R80). -/
  | stationConfigWrite (word : StationWord) (value : Word)
  /-- READ_ONLY_WRITE: a host write to a read-only register or window word (R164). -/
  | readOnlyWrite (address : HostAddress) (value : Word)
  /-- UNMAPPED_ACCESS: an access to an address that reaches nothing (R165). -/
  | unmappedAccess (address : HostAddress) (access : Access)
  /-- REGISTER_WRITE: a host write to a read-write register without behaviour of its own (R164). -/
  | registerWrite (address : HostAddress) (value : Word)
  /-- HOST_SHARED_MEMORY_ACCESS: an access in the shared memory window (R166). -/
  | hostSharedMemoryAccess (address : HostAddress) (access : Access)
  /-- ROUND_TIMER_EXPIRY (R33). -/
  | roundTimerExpiry
  /-- SLOT_RECORD_READ_DONE: the slot start reads complete (R21). -/
  | slotRecordReadDone
  /-- DEMAND_RECORD_READ_DONE: the read of a taken demand's point record ends (R123). -/
  | demandRecordReadDone
  /-- PAUSE_END (R6). -/
  | pauseEnd
  /-- CALL_TRANSMIT_START (R57). -/
  | callTransmitStart
  /-- OCCUPANCY_GUARD_EXPIRY (R56). -/
  | occupancyGuardExpiry
  /-- CALL_ECHO_END, with the bit times that the receiver heard since the call's first preamble bit (R58). -/
  | callEchoEnd (heard : List BitTime)
  /-- ANSWER_WINDOW_CLOSE (R59). -/
  | answerWindowClose
  /-- ANSWER_SYNC_DETECTED, with the bit times that the line goes on to deliver after the marker (R61, R178). -/
  | answerSyncDetected (line : List BitTime)
  /-- ANSWER_RECEIVED: reception ends (R60). -/
  | answerReceived
  /-- TRAINING_BURST_DUE (R136). -/
  | trainingBurstDue (trunk : TrunkId)
  /-- BURST_TRANSMIT_START (R136). -/
  | burstTransmitStart (trunk : TrunkId)
  /-- BURST_ECHO_END, with the bit times that the receiver heard since the burst's first preamble bit (R137). -/
  | burstEchoEnd (trunk : TrunkId) (heard : List BitTime)
  /-- TRAINING_TIMER_EXPIRY (R138). -/
  | trainingTimerExpiry (trunk : TrunkId)
  /-- EVENT_RECORD_PUBLISHED: the eighth word of the record at the head is stored (R149). -/
  | eventRecordPublished
  /-- LINE_ACTIVITY: a receiver hears activity that is not an accepted answer (R132). -/
  | lineActivity (heard : Heard)
deriving DecidableEq, Repr

end Sys2Proof
end

