-- ==== Sys2Proof/Config.lean ====
section
/-! DEFINITION. The fixed numbers of the part, and the one free value of the model: how many accesses to the RAM are
granted between two commands, which the manual leaves to the speeds of the requesters. -/

namespace Sys2Proof.Config

/-- Words of on-chip RAM (R163, R166). -/
def ramWords : Nat := 16384

/-- Words of a plan bank: 8 of header, 64 of directory, 1024 of slot records (Table 1-4). -/
def bankWords : Nat := 1096

/-- The largest plan base whose bank lies inside the RAM (R1). -/
def maxPlanBase : Nat := 15288

/-- Station records (R77). -/
def stationCount : Nat := 62

/-- Point runtime entries (R101). -/
def pointEntries : Nat := 256

/-- Places in the demand queue (R118). -/
def queuePlaces : Nat := 8

/-- The station number of a broadcast or a SYNC (R50). -/
def broadcastStation : Nat := 63

/-- Microseconds between the due times of training bursts (R136). -/
def burstInterval : Nat := 1000

/-- Consecutive clean burst echoes that make a line READY (R137). -/
def cleanEchoesNeeded : Nat := 4

/-- Bit times of the gap and of quiet (R56, R132). -/
def gapBits : Nat := 8

/-- Bit times of a frame without payload: preamble, sync marker, header and CRC (R178). -/
def frameBits : Nat := 72

/-- Bit times of a sync marker (R178). -/
def syncBits : Nat := 8

/-- Bit times of a frame's header. -/
def headerBits : Nat := 32

/-- The reception limit after the sync marker, in bit times (R60). -/
def receptionLimit : Nat := 560

/-- The bit times that the bound of R29 adds to the answer window. -/
def cutBoundBits : Nat := 600

/-- Microseconds that 8 bit times last at the slowest rate (R143). -/
def longestGap : Nat := 16

/-- More accesses than any record read makes: the longest is a validation, of 5 header words, 64 of directory, 1024 of
slot records and 7 for the point of each of 512 slots (R9). -/
def readLimit : Nat := 4700

/-- FREE VALUE. `grants k` is how many accesses of the rotating requesters the arbiter grants in the `k`-th stretch of
time in which any waits. R9, R21, R119 and R123 say that a host write taken before a word is read is seen and one taken
after is not, and leave the moments to the traffic at the arbiter (assumption 7). -/
opaque grants : Nat → Nat

end Sys2Proof.Config
end

