-- ==== Sys2Proof/Machine/State.lean ====
section
/-! DEFINITION. The state of the PH-62C as plain data, one structure per block of Table 1-1, and its value right after
reset. -/

namespace Sys2Proof.Machine

/-! ## Names that several blocks share -/

/-- The two plan banks (01, section 1.10). -/
inductive Bank where
  | a
  | b
deriving DecidableEq, Repr

/-- Outcome codes of an attempt or a transfer (Table 10-11). -/
inductive OutcomeCode where
  | none
  | good
  | goodRepeat
  | busy
  | restarted
  | outOfStep
  | noAnswer
  | garbled
  | wrongStation
  | wrongLength
  | wrongToggle
  | occupied
  | echoFault
  | noTrunk
  | aborted
  | sent
  | expired
  | cancelled
deriving DecidableEq, Repr

/-- Retry trunk policies (R5). -/
inductive RetryPolicy where
  | same
  | alternate
deriving DecidableEq, Repr

/-- Point functions (R100). -/
inductive PointFunction where
  | read
  | write
  | exchange
deriving DecidableEq, Repr

/-- The fields of a point configuration record (Table 5-1), as read for a transfer. -/
structure PointRecord where
  function : PointFunction
  station : Nat
  report : Bool
  notify : Bool
  sendOnCommit : Bool
  objectIndex : BitVec 8
  outLength : Nat
  inLength : Nat
  inPage0 : Nat
  inPage1 : Nat
  outPage0 : Nat
  outPage1 : Nat
deriving DecidableEq, Repr

/-! ## Host port -/

/-- Host error codes (Table 8-4). -/
inductive HostError where
  | none
  | unmapped
  | readOnly
  | locked
  | badValue
  | badReadIndex
  | selectRange
  | commandOverrun
deriving DecidableEq, Repr

/-- The host port's own state (R158, R160, R162, R167, R176). Causes and enables stand at the bits of Table 11-4. -/
structure HostPort where
  /-- The RESET input is asserted (R176). -/
  resetAsserted : Bool
  /-- MODEL: the word the host port last returned to the host (assumption 11). -/
  readData : Word
  irqCause : BitVec 5
  irqEnable : BitVec 5
  errorCode : HostError
  errorAddress : HostAddress
  /-- The time-tag holding register (R167). -/
  timeHold : Word
deriving DecidableEq, Repr

/-! ## Command Unit -/

/-- Result codes (Table 9-4). -/
inductive ResultCode where
  | none
  | done
  | refusedState
  | badOperand
  | planInvalid
  | queueFull
  | duplicate
  | notFound
  | inFlight
  | pending
  | late
deriving DecidableEq, Repr

/-- Four argument words (R172). -/
structure CommandArgs where
  arg0 : Word
  arg1 : Word
  arg2 : Word
  arg3 : Word
deriving DecidableEq, Repr

/-- The three point commands (R110). -/
inductive PointCommand where
  | hold
  | release
  | commit
deriving DecidableEq, Repr

/-- The two trunk commands (R133, R134). -/
inductive TrunkCommand where
  | train
  | off
deriving DecidableEq, Repr

/-- The work that the owner of a held command has begun and not finished (R174). -/
inductive CommandWork where
  /-- ABORT waits for the quiet of the cut attempt's trunk, at most `boundLeft` microseconds (R29). -/
  | abortWait (trunk : TrunkId) (boundLeft : Nat)
  /-- ENGINE RESET waits in the same way (R46). -/
  | resetWait (trunk : TrunkId) (boundLeft : Nat)
  /-- A validation with its captured base (R9), for SWITCH PLAN or for VALIDATE PLAN. -/
  | validation (forSwitch : Bool) (bank : Bank) (base : Nat)
  /-- The record read of a point command (R110). -/
  | pointRead (command : PointCommand) (point : BitVec 8)
  /-- The record read and check of a DEMAND POST (R119). -/
  | postCheck (point : BitVec 8) (high : Bool) (deadline : Nat) (tag : BitVec 8)
  /-- A trunk command held for the attempt on its trunk (R135). -/
  | trunkHeld (command : TrunkCommand) (trunk : TrunkId)
deriving DecidableEq, Repr

/-- The held command: the copies of its arguments and its owner's work (R171, R172). -/
structure HeldCommand where
  args : CommandArgs
  work : CommandWork
deriving DecidableEq, Repr

/-- Command Unit state (Table 9-3). The unit is BUSY while a command is held. -/
structure CommandUnit where
  /-- What COMMAND reads: the code held, or most recently taken (R171). -/
  code : Word
  /-- CMD ARG 0 to 3. -/
  args : CommandArgs
  held : Option HeldCommand
  result : ResultCode
  detail : Word
deriving DecidableEq, Repr

/-! ## Registers that hold a setting -/

/-- The read-write registers whose owners only read them. -/
structure Settings where
  planABase : Word
  planBBase : Word
  gates : BitVec 8
  demandRetries : Word
  occupancyGuard : Word
  pointBase : Word
  pointCount : Word
  pointSelect : Word
  stationSelect : Word
  suspectAfter : Word
  absentAfter : Word
  confirmCount : Word
  probeInterval : Word
  trunkRate : Word
  trainingTimeout : Word
  trunkFaultLimit : Word
deriving DecidableEq, Repr

/-! ## Schedule engine -/

/-- Engine states (R23). -/
inductive EngineState where
  | idle
  | running
  | draining
  | halted
deriving DecidableEq, Repr

/-- Stop points (R23). -/
inductive StopPoint where
  | none
  | roundEnd
  | sweepEnd
deriving DecidableEq, Repr

/-- Halt causes (R23). -/
inductive HaltCause where
  | none
  | noTrunks
  | overrun
deriving DecidableEq, Repr

/-- Overrun policies (R2). -/
inductive OverrunPolicy where
  | late
  | truncate
  | halt
deriving DecidableEq, Repr

/-- One entry of the kept round directory (R3). -/
structure DirectoryEntry where
  first : Nat
  count : Nat
deriving DecidableEq, Repr

/-- The plan geometry kept at an activation, or captured for a pending switch (R18, R19). -/
structure Geometry where
  bank : Bank
  base : Nat
  roundCount : Nat
  /-- In units of 10 microseconds. -/
  roundPeriod : Nat
  /-- In microseconds. -/
  answerWindow : Nat
  policy : OverrunPolicy
  slotTotal : Nat
  directory : List DirectoryEntry
deriving DecidableEq, Repr

/-- The round timer (R23). -/
inductive RoundTimer where
  | stopped
  | running (left : Nat)
  | expired
deriving DecidableEq, Repr

/-- The slot in progress, and what it is doing (R40). -/
inductive SlotPhase where
  /-- No slot is in progress. -/
  | none
  /-- The slot record, and a TRANSFER slot's point record, are being read (R21), for `elapsed` microseconds since the
  slot began. -/
  | reading (elapsed : Nat)
  /-- The point record of the taken demand is being read; `retries` is DEMAND RETRIES as sampled (R42, R123). -/
  | demandReading (retries : Nat)
  /-- A PAUSE slot waits (R6). -/
  | pausing (left : Nat)
  /-- The slot's transfer is in progress. -/
  | transferring
deriving DecidableEq, Repr

/-- Schedule engine state (Table 2-1), with the active and pending banks (R18, R19). -/
structure Engine where
  state : EngineState
  stop : StopPoint
  halt : HaltCause
  sweep : Word
  round : Nat
  slot : Nat
  phase : SlotPhase
  timer : RoundTimer
  noTrunkReported : Bool
  /-- The active bank with its geometry; `none` is active bank NONE. -/
  active : Option Geometry
  /-- The pending bank with its captured values; `none` is no pending switch. -/
  pending : Option Geometry
deriving DecidableEq, Repr

/-! ## Transfer unit -/

/-- Kinds of transfer other than NONE (Table 3-1). -/
inductive TransferKind where
  | point
  | probe
  | broadcast
  | sync
deriving DecidableEq, Repr

/-- What a receiver makes of the bit times after an answer's sync marker (R60, R178): whole words in the order received,
how many bits of a further word follow them, and whether a line-code violation stands among them. -/
structure AnswerFrame where
  words : List Word
  tailBits : Nat
  violation : Bool
deriving DecidableEq, Repr

/-- How far the attempt in flight has come. -/
inductive AttemptPhase where
  /-- It waits for the gap after the last frame on its line (R56). -/
  | gap
  /-- The gap has passed and the occupancy check is made; `guardLeft` counts the sampled guard down, and `lapsed` says
  that it ran out before the line fell quiet (R55, R56). -/
  | occupancy (guardLeft : Nat) (lapsed : Bool)
  /-- The call is on the line: time since its first preamble bit, header words, number of payload words, and the
  payload words read so far (R57). -/
  | sending (elapsed : Nat) (header0 header1 : Word) (length : Nat) (payload : List Word)
  /-- The answer window is open (R59). -/
  | window (left : Nat)
  /-- An answer is being received: time since its sync marker, and how many of its words have been put into the
  incoming page that `page` names, if it has one (R60, R61). -/
  | receiving (elapsed : Nat) (frame : AnswerFrame) (page : Option Nat) (stored : Nat)
deriving DecidableEq, Repr

/-- The transfer record (Table 3-1) while a transfer is in progress. -/
structure Transfer where
  kind : TransferKind
  /-- The demand tag when the source is DEMAND; `none` when it is PLAN. -/
  demandTag : Option (BitVec 8)
  point : BitVec 8
  /-- The point values as read for the transfer; a SYNC has none. -/
  values : Option PointRecord
  station : Nat
  allowed : Nat
  policy : RetryPolicy
  toggle : Bool
  /-- Number of attempts begun. -/
  attempts : Nat
  trunk : TrunkId
  outcome : OutcomeCode
  broadcastSent : Bool
  heardIdentity : Word
  reportedToggle : Bool
  detached : Bool
  phase : AttemptPhase
deriving DecidableEq, Repr

/-- A point runtime entry (Table 5-2). The indices S and T are true for 1. -/
structure PointEntry where
  stable : Bool
  transmit : Bool
  hold : Bool
  pending : Bool
  committed : Bool
  inFlight : Bool
  updates : Word
  lastOutcome : OutcomeCode
  stampSweep : Word
  stampRound : Nat
deriving DecidableEq, Repr

/-! ## Station table -/

/-- Station states (R77). -/
inductive StationState where
  | off
  | absent
  | confirming
  | online
  | suspect
deriving DecidableEq, Repr

/-- A station record (Table 4-1). The next toggle is true for 1. -/
structure Station where
  expectedIdentity : Word
  preferredTrunk : TrunkId
  state : StationState
  currentTrunk : TrunkId
  nextToggle : Bool
  failureRun : Nat
  confirmCount : Nat
  probeCountdown : Nat
  lastCondition : BitVec 8
  heardIdentity : Word
  mismatch : Bool
deriving DecidableEq, Repr

/-! ## Demand queue -/

/-- A demand entry (Table 6-1). -/
structure Demand where
  point : BitVec 8
  station : Nat
  high : Bool
  deadline : Nat
  tag : BitVec 8
  inFlight : Bool
deriving DecidableEq, Repr

/-! ## Trunk interfaces -/

/-- Trunk interface states (R131). -/
inductive TrunkState where
  | off
  | training
  | ready
  | failed
deriving DecidableEq, Repr

/-- A training burst that has fallen due (R136). -/
inductive BurstPhase where
  | none
  /-- It waits for the gap and for quiet. -/
  | waiting
  /-- It is on the line. -/
  | sending (left : Nat)
deriving DecidableEq, Repr

/-- Trunk interface state (Table 7-1). -/
structure Trunk where
  state : TrunkState
  faults : Nat
  training : Nat
  /-- The training timer's remaining microseconds; `none` is STOPPED. -/
  timer : Option Nat
  /-- The time tag at which the next burst falls due. -/
  burstDue : Option TimeTag
  burst : BurstPhase
  /-- Microseconds until 8 bit times of the slowest rate have passed since the end of the last frame (R132; assumption
  23). -/
  gapHold : Nat
  /-- Microseconds until they have passed since the last activity, if nothing more is heard (R132; assumption 23). -/
  quietHold : Nat
  /-- Microseconds until the frame of another talker that is on the line now ends; 0 without one (R132). -/
  frameLeft : Nat
  /-- Activity from another talker was heard during the part's own last transmission (R58, R137). -/
  overlapped : Bool
  /-- MODEL: the bit times of the last frame transmitted whole (assumption 29). -/
  lastFrame : List BitTime
deriving DecidableEq, Repr

/-! ## Event writer -/

/-- Event kinds (Table 8-1). -/
inductive EventKind where
  | transferFault
  | pointUpdate
  | stationState
  | stationCondition
  | identityMismatch
  | trunkState
  | roundOverrun
  | sweepEnd
  | planSwitched
  | planFault
  | demandDone
  | engineState
  | ringFull
  | resumed
  | noTrunk
deriving DecidableEq, Repr

/-- An event record (R153). -/
structure EventRecord where
  kind : EventKind
  trunk : Option TrunkId
  round : Nat
  station : Nat
  outcome : OutcomeCode
  /-- The point number, slot index or demand tag. -/
  item : Word
  sweep : Word
  time : TimeTag
  detail : Word
deriving DecidableEq, Repr

/-- The event writer with the ring's registers (R147 to R157). -/
structure Ring where
  base : Word
  size : Word
  readIndex : Nat
  writeIndex : Nat
  /-- Reserved records awaiting storage, in order of arrival (R149). -/
  awaiting : List EventRecord
  dropping : Bool
  dropped : Nat
  watermark : Word
  enable : Word
deriving DecidableEq, Repr

/-! ## Shared memory and arbiter -/

/-- The rotating requesters of the arbiter (Table 9-2). -/
inductive Requester where
  | engine
  | command
  | eventWriter
  | hostPort
deriving DecidableEq, Repr

/-- The RAM: (address, word) pairs, addresses strictly rising, no zero word listed. An unlisted address reads 0
(assumption 1). -/
abbrev Ram := List (Nat × Word)

/-- How far the requesters of the arbiter that take several accesses have come (R169). -/
structure Traffic where
  /-- The words the engine's record read in progress has read so far, in order (R21, R123). -/
  engine : Option (List Word)
  /-- The words the held command's read has read so far, in order (R9, R110, R119). -/
  command : Option (List Word)
  /-- How many words of the record at the head of the event writer's list are stored (R149). -/
  stored : Nat
  /-- MODEL: how many stretches of grants have been: the argument that makes `Config.grants` fresh (assumption 7). -/
  token : Nat
deriving DecidableEq, Repr

/-! ## The whole part -/

/-- The state of the part, and the queue of the commands that wait. -/
structure State where
  /-- The commands that wait, oldest first. -/
  pending : List Instr
  port : HostPort
  cmd : CommandUnit
  set : Settings
  eng : Engine
  /-- The transfer record; `none` is kind NONE with every field 0 (R49). -/
  xfer : Option Transfer
  /-- The records of stations 1 to 62. -/
  stations : Vector Station 62
  /-- The runtime entries of points 0 to 255. -/
  points : Vector PointEntry 256
  demands : List Demand
  trunkA : Trunk
  trunkB : Trunk
  ring : Ring
  ram : Ram
  time : TimeTag
  /-- The rotating requester granted last (R169). -/
  lastGrant : Requester
  traffic : Traffic
deriving DecidableEq, Repr

/-- The part stops for nothing: every faulted access is latched in HOST ERROR (R162) and every refused command
completes with a result code (R175). So no step of the model faults. -/
inductive Fault where
deriving DecidableEq, Repr

/-- Why a step has no meaning. -/
inductive Refusal where
  /-- Raised by an arm of `exec` whose command has no meaning yet; no arm raises it. Safe: the model stops. -/
  | notModelled (mnemonic : String)
deriving DecidableEq, Repr

/-! ## Reset values -/

/-- The host port after pin reset, with RESET released again (R161, R162, R167, R176; assumptions 8 and 11). -/
def HostPort.reset : HostPort :=
  { resetAsserted := false, readData := 0, irqCause := 0, irqEnable := 0, errorCode := .none, errorAddress := 0,
    timeHold := 0 }

/-- The Command Unit after pin reset (Table 9-3, R172). -/
def CommandUnit.reset : CommandUnit :=
  { code := 0, args := { arg0 := 0, arg1 := 0, arg2 := 0, arg3 := 0 }, held := none, result := .none, detail := 0 }

/-- The settings after pin reset (Table 11-1). -/
def Settings.reset : Settings :=
  { planABase := 0, planBBase := 0, gates := 0, demandRetries := 1, occupancyGuard := 20, pointBase := 0,
    pointCount := 256, pointSelect := 0, stationSelect := 1, suspectAfter := 2, absentAfter := 4, confirmCount := 3,
    probeInterval := 8, trunkRate := 1, trainingTimeout := 10, trunkFaultLimit := 3 }

/-- The engine after pin reset (Table 2-1, R20). -/
def Engine.reset : Engine :=
  { state := .idle, stop := .none, halt := .none, sweep := 0, round := 0, slot := 0, phase := .none, timer := .stopped,
    noTrunkReported := false, active := none, pending := none }

/-- A point runtime entry after either reset (Table 5-2). -/
def PointEntry.reset : PointEntry :=
  { stable := false, transmit := false, hold := false, pending := false, committed := false, inFlight := false,
    updates := 0, lastOutcome := .none, stampSweep := 0, stampRound := 0 }

/-- A station record after pin reset (R77). -/
def Station.reset : Station :=
  { expectedIdentity := 0, preferredTrunk := .a, state := .off, currentTrunk := .a, nextToggle := false,
    failureRun := 0, confirmCount := 0, probeCountdown := 0, lastCondition := 0, heardIdentity := 0, mismatch := false }

/-- A trunk interface after pin reset (R131), on a line that has been quiet (assumption 23). -/
def Trunk.reset : Trunk :=
  { state := .off, faults := 0, training := 0, timer := none, burstDue := none, burst := .none, gapHold := 0,
    quietHold := 0, frameLeft := 0, overlapped := false, lastFrame := [] }

/-- The event writer after pin reset (R147, R152, R156, R157). -/
def Ring.reset : Ring :=
  { base := 0, size := 4, readIndex := 0, writeIndex := 0, awaiting := [], dropping := false, dropped := 0,
    watermark := 8, enable := 0x9EFA }

/-- The part right after pin reset, RESET released and nothing taken yet (R176). -/
def State.reset : State :=
  { pending := [], port := .reset, cmd := .reset, set := .reset, eng := .reset, xfer := none,
    stations := Vector.replicate 62 .reset, points := Vector.replicate 256 .reset, demands := [], trunkA := .reset,
    trunkB := .reset, ring := .reset, ram := [], time := 0, lastGrant := .hostPort,
    traffic := { engine := none, command := none, stored := 0, token := 0 } }

end Sys2Proof.Machine
end

