-- ==== Sys2Proof/Machine/Operands.lean ====
section
/-! DEFINITION. Every layout of words and bits that the part reads or writes: records in shared memory, frames on the
line, event records and their detail words (10_frame_and_record_formats.md), and the code values of every name. -/

namespace Sys2Proof.Machine

/-! ## Bit fields -/

/-- The field of `len` bits whose least significant bit is bit `lo`. -/
def field (w : Word) (lo len : Nat) : Nat := (w.extractLsb' lo len).toNat

/-- Bit `i` of a word. -/
def bitOf (w : Word) (i : Nat) : Bool := w.getLsbD i

/-- 1 for a set flag, 0 for a clear one. -/
def flagBit (b : Bool) : Nat := if b then 1 else 0

/-! ## Codes -/

/-- Outcome codes (Table 10-11). -/
def OutcomeCode.code (o : OutcomeCode) : Nat :=
  match o with
  | .none => 0
  | .good => 1
  | .goodRepeat => 2
  | .busy => 3
  | .restarted => 4
  | .outOfStep => 5
  | .noAnswer => 6
  | .garbled => 7
  | .wrongStation => 8
  | .wrongLength => 9
  | .wrongToggle => 10
  | .occupied => 11
  | .echoFault => 12
  | .noTrunk => 13
  | .aborted => 14
  | .sent => 15
  | .expired => 16
  | .cancelled => 17

/-- Event kind numbers (Table 8-1). -/
def EventKind.code (k : EventKind) : Nat :=
  match k with
  | .transferFault => 1
  | .pointUpdate => 2
  | .stationState => 3
  | .stationCondition => 4
  | .identityMismatch => 5
  | .trunkState => 6
  | .roundOverrun => 7
  | .sweepEnd => 8
  | .planSwitched => 9
  | .planFault => 10
  | .demandDone => 11
  | .engineState => 12
  | .ringFull => 13
  | .resumed => 14
  | .noTrunk => 15

/-- Engine state codes (R24). -/
def EngineState.code (e : EngineState) : Nat :=
  match e with
  | .idle => 0
  | .running => 1
  | .draining => 2
  | .halted => 3

/-- Stop point codes (Table 11-2). -/
def StopPoint.code (p : StopPoint) : Nat :=
  match p with
  | .none => 0
  | .roundEnd => 1
  | .sweepEnd => 2

/-- Halt cause codes (Table 11-2). -/
def HaltCause.code (c : HaltCause) : Nat :=
  match c with
  | .none => 0
  | .noTrunks => 1
  | .overrun => 2

/-- Station state codes (R77). -/
def StationState.code (s : StationState) : Nat :=
  match s with
  | .off => 0
  | .absent => 1
  | .confirming => 2
  | .online => 3
  | .suspect => 4

/-- Trunk state codes (R131). -/
def TrunkState.code (s : TrunkState) : Nat :=
  match s with
  | .off => 0
  | .training => 1
  | .ready => 2
  | .failed => 3

/-- Result codes (Table 9-4). -/
def ResultCode.code (r : ResultCode) : Nat :=
  match r with
  | .none => 0
  | .done => 1
  | .refusedState => 2
  | .badOperand => 3
  | .planInvalid => 4
  | .queueFull => 5
  | .duplicate => 6
  | .notFound => 7
  | .inFlight => 8
  | .pending => 9
  | .late => 10

/-- Host error codes (Table 8-4). -/
def HostError.code (e : HostError) : Nat :=
  match e with
  | .none => 0
  | .unmapped => 1
  | .readOnly => 2
  | .locked => 3
  | .badValue => 4
  | .badReadIndex => 5
  | .selectRange => 6
  | .commandOverrun => 7

/-- Transfer kind codes of TRANSFER STATUS; 0 is NONE (Table 11-2). -/
def TransferKind.code (k : TransferKind) : Nat :=
  match k with
  | .point => 1
  | .probe => 2
  | .broadcast => 3
  | .sync => 4

/-- Trunk operands and register fields: 0 for A, 1 for B (Table 11-6). -/
def trunkBit (t : TrunkId) : Nat :=
  match t with
  | .a => 0
  | .b => 1

/-- Trunk field of an event record: 0 none, 1 A, 2 B (Table 10-10). -/
def trunkField (t : Option TrunkId) : Nat :=
  match t with
  | none => 0
  | some .a => 1
  | some .b => 2

/-- Bank fields of ENGINE STATUS and of the PLAN SWITCHED detail: 0 NONE, 1 A, 2 B (Table 10-12, section 11.3). -/
def bankField (b : Option Bank) : Nat :=
  match b with
  | none => 0
  | some .a => 1
  | some .b => 2

/-- The trunk that a trunk operand names (Table 11-6). -/
def trunkOfOperand (w : Word) : Option TrunkId :=
  match w.toNat with
  | 0 => some .a
  | 1 => some .b
  | _ => none

/-- The bank that a bank operand names (Table 11-6). -/
def bankOfOperand (w : Word) : Option Bank :=
  match w.toNat with
  | 0 => some .a
  | 1 => some .b
  | _ => none

/-- The operand CANCEL of SWITCH PLAN (Table 11-6). -/
def cancelOperand : Word := 2

/-- A number of eight bits held in a word; none when it is above 255. -/
def byteOf (w : Word) : Option (BitVec 8) := if w.toNat ≤ 255 then some (BitVec.ofNat 8 w.toNat) else none

/-! ## Detail words (Table 10-12) -/

/-- A check code in bits 15–10 and an index in bits 9–0 (R13); also attempts or check code with a point number. -/
def codeIndex (code index : Nat) : Word := BitVec.ofNat 16 (code % 64 * 1024 + index % 1024)

/-- Old state in bits 15–12, new state in bits 11–8, cause in bits 7–0. -/
def stateChange (old new cause : Nat) : Word := BitVec.ofNat 16 (old * 4096 + new * 256 + cause)

/-! ## Plan records (R182) -/

/-- Overrun policy codes of header word 3 (Table 10-6). -/
def policyOf (w : Word) : Option OverrunPolicy :=
  match w.toNat with
  | 1 => some .late
  | 2 => some .truncate
  | 3 => some .halt
  | _ => none

/-- A directory entry: slot count in bits 15–9, first slot index in bits 8–0 (R182). -/
def directoryOf (w : Word) : DirectoryEntry := { first := field w 0 9, count := field w 9 7 }

/-- A gate that a slot names, with the bit value on which the slot runs (R4, R8). -/
structure GateTest where
  gate : Nat
  runIfSet : Bool
deriving DecidableEq, Repr

/-- The work of a slot, with the operands its kind uses (Table 1-6). -/
inductive SlotWork where
  | transfer (point : BitVec 8) (retries : Nat) (policy : RetryPolicy)
  | openSlot
  | sync
  | pause (length : Nat)
deriving DecidableEq, Repr

/-- A slot record that has passed its checks (R4). `gate` is `none` for gate NONE. -/
structure SlotRecord where
  gate : Option GateTest
  work : SlotWork
deriving DecidableEq, Repr

/-- A failed check: its code and the index of its detail (R13). -/
structure CheckFailure where
  code : Nat
  index : Nat
deriving DecidableEq, Repr

/-- The detail word of a failed check (R13). -/
def CheckFailure.detail (f : CheckFailure) : Word := codeIndex f.code f.index

/-- Retry trunk policy codes (Table 10-7). -/
def retryPolicyOf (w0 : Word) : Option RetryPolicy :=
  match field w0 12 2 with
  | 1 => some .same
  | 2 => some .alternate
  | _ => none

/-- The gate and its sense (Table 10-7): `some none` for gate NONE, `none` for an undefined value. -/
def gateOf (w0 : Word) : Option (Option GateTest) :=
  let g := field w0 4 4
  if g = 0 then some none
  else if g < 8 then none
  else
    match field w0 8 2 with
    | 1 => some (some { gate := g - 8, runIfSet := true })
    | 2 => some (some { gate := g - 8, runIfSet := false })
    | _ => none

/-- Word 1 of a slot record is read, unless the kind is OPEN or SYNC (Table 10-8). -/
def readsSlotWord1 (w0 : Word) : Bool := !(field w0 0 3 == 2 || field w0 0 3 == 3)

/-- A slot record's checks in code order: 9 SLOT KIND, 10 SLOT GATE, 11 RETRY POLICY, 12 PAUSE LENGTH (R11). The check
code of the first that fails, or the record. -/
def parseSlot (w0 w1 : Word) : Except Nat SlotRecord :=
  let kind := field w0 0 3
  if kind = 0 || 4 < kind then .error 9
  else
    match gateOf w0 with
    | none => .error 10
    | some gate =>
      if kind = 1 then
        match retryPolicyOf w0 with
        | none => .error 11
        | some policy => .ok { gate, work := .transfer (w1.extractLsb' 0 8) (field w0 10 2) policy }
      else if kind = 2 then .ok { gate, work := .openSlot }
      else if kind = 3 then .ok { gate, work := .sync }
      else if w1 = 0 then .error 12
      else .ok { gate, work := .pause w1.toNat }

/-! ## Point configuration records (R183) -/

/-- Function codes of a point record (Table 10-3). -/
def functionOf (w0 : Word) : Option PointFunction :=
  match field w0 0 3 with
  | 1 => some .read
  | 2 => some .write
  | 3 => some .exchange
  | _ => none

/-- The function receives words: it uses the in length and the incoming pages (R12). -/
def PointFunction.usesIn (f : PointFunction) : Bool :=
  match f with
  | .read | .exchange => true
  | .write => false

/-- The function sends words: it uses the out length and the outgoing pages (R12). -/
def PointFunction.usesOut (f : PointFunction) : Bool :=
  match f with
  | .write | .exchange => true
  | .read => false

/-- The station of a point record (Table 10-9). -/
def pointStation (w0 : Word) : Nat := field w0 8 6

/-- A page of `length` words at `address` lies wholly inside the RAM (R12). -/
def pageInside (address length : Nat) : Bool := address + length ≤ Config.ramWords

/-- The checks of word 0, in the order of Table 1-9: 14 FUNCTION, 15 STATION, 16 BROADCAST FUNCTION. The check code of
the first that fails, or the function. -/
def pointFunction (w0 : Word) : Except Nat PointFunction :=
  match functionOf w0 with
  | none => .error 14
  | some f =>
    if pointStation w0 = 0 then .error 15
    else if pointStation w0 = Config.broadcastStation && f.usesIn then .error 16
    else .ok f

/-- A length is between 1 and 32 (Table 5-1). -/
def lengthLegal (n : Nat) : Bool := 1 ≤ n && n ≤ 32

/-- Check 17 LENGTH, on the lengths in word 2 that the function uses (Table 1-9). -/
def PointFunction.lengthsLegal (f : PointFunction) (w2 : Word) : Bool :=
  (!f.usesIn || lengthLegal (field w2 8 6)) && (!f.usesOut || lengthLegal (field w2 0 6))

/-- The fields of a record from the words read for its function (Table 10-9). A field that the function does not use is
not taken, and is 0 here (R100). -/
def pointRecord (f : PointFunction) (w0 w1 w2 in0 in1 out0 out1 : Word) : PointRecord :=
  { function := f, station := pointStation w0, report := bitOf w1 0, notify := bitOf w1 1, sendOnCommit := bitOf w1 2
    objectIndex := w1.extractLsb' 8 8
    outLength := if f.usesOut then field w2 0 6 else 0
    inLength := if f.usesIn then field w2 8 6 else 0
    inPage0 := in0.toNat, inPage1 := in1.toNat, outPage0 := out0.toNat, outPage1 := out1.toNat }

/-- Check 18 PAGE: every page of the record lies inside the RAM (Table 1-9). -/
def PointRecord.pagesChecked (r : PointRecord) : Except Nat PointRecord :=
  if pageInside r.inPage0 r.inLength && pageInside r.inPage1 r.inLength && pageInside r.outPage0 r.outLength &&
      pageInside r.outPage1 r.outLength then
    .ok r
  else .error 18

/-- The incoming page with the given index (true for 1). -/
def PointRecord.inPage (r : PointRecord) (index : Bool) : Nat := if index then r.inPage1 else r.inPage0

/-- The outgoing page with the given index (true for 1). -/
def PointRecord.outPage (r : PointRecord) (index : Bool) : Nat := if index then r.outPage1 else r.outPage0

/-! ## Frames on the line (R178 to R181) -/

/-- One bit of the CRC register's computation (R179). -/
def crcStep (register : Word) (bit : Bool) : Word :=
  let shifted := register <<< 1
  if bit != register.getLsbD 15 then shifted ^^^ 0x1021 else shifted

/-- One word of the computation, most significant bit first (R179). -/
def crcWord (register word : Word) : Word :=
  (List.range 16).foldl (fun r i => crcStep r (word.getLsbD (15 - i))) register

/-- The CRC word over the given words (R179). -/
def crc16 (words : List Word) : Word := words.foldl crcWord 0xFFFF

/-- Function codes of a call header (Table 10-3). -/
def callFunctionCode (kind : TransferKind) (function : PointFunction) : Nat :=
  match kind with
  | .probe => 4
  | .sync => 5
  | .point | .broadcast =>
    match function with
    | .read => 1
    | .write => 2
    | .exchange => 3

/-- Word 0 of a call header: station, function code, toggle (Table 10-2). -/
def callHeader0 (station functionCode : Nat) (toggle : Bool) : Word :=
  BitVec.ofNat 16 (station * 1024 + functionCode * 128 + flagBit toggle * 64)

/-- Word 1 of a call header: object index and length (Table 10-2). -/
def callHeader1 (objectIndex : BitVec 8) (length : Nat) : Word :=
  BitVec.ofNat 16 (objectIndex.toNat * 256 + length)

/-- The words of a frame after its sync marker: header, payload and their CRC (R178, R179). -/
def frameWords (header0 header1 : Word) (payload : List Word) : List Word :=
  let covered := header0 :: header1 :: payload
  covered ++ [crc16 covered]

/-- The words of a training burst (R180). -/
def burstWords : List Word := frameWords 0x0000 0x0003 [0x5A3C, 0x96C3, 0x0FF0]

/-- Bit times of a frame with `n` payload words (R178). -/
def frameBits (n : Nat) : Nat := Config.frameBits + 16 * n

/-! ### The line code (R178) -/

/-- The bits of a word as they are sent, most significant bit first (R178). -/
def wordBits (w : Word) : List Bool := (List.range 16).map (fun i => w.getLsbD (15 - i))

/-- The bit time of a bit: a transition at its boundary, and one in its middle for a 1 (R178). -/
def bitTime (bit : Bool) : BitTime := { boundary := true, middle := bit, stray := false }

/-- The preamble: 16 bits, 1 and 0 in turn, first bit 1 (R178). -/
def preamble : List BitTime := (wordBits 0xAAAA).map bitTime

/-- A bit time of the sync marker: four at one level and four at the other, so that only the first of each four begins
with a transition and none carries one in its middle (R178). -/
def syncBitTime (i : Nat) : BitTime := { boundary := decide (i % 4 = 0), middle := false, stray := false }

/-- The sync marker, eight bit times (R178). -/
def syncMarker : List BitTime := (List.range 8).map syncBitTime

/-- The bit times of words on the line. -/
def wordsOnLine (words : List Word) : List BitTime := (words.flatMap wordBits).map bitTime

/-- The bit times of a frame: preamble, sync marker, then header, payload and CRC, word by word (R178). -/
def frameOnLine (words : List Word) : List BitTime := preamble ++ syncMarker ++ wordsOnLine words

/-- The level of the line in each half of each bit time, if it was at `level` before (R178). -/
def lineLevels (level : Bool) (line : List BitTime) : List Bool :=
  match line with
  | [] => []
  | b :: rest =>
    let first := level != b.boundary
    let second := first != b.middle
    first :: second :: lineLevels second rest

/-- The word that 16 received bits are, the first the most significant. -/
def wordOfBits (bits : List Bool) : Word := BitVec.ofNat 16 (bits.foldl (fun n b => 2 * n + flagBit b) 0)

/-- What a receiver makes of the bit times after a sync marker: the frame ends at the first boundary without a
transition; a transition elsewhere is a line-code violation; the middles are the bits (R60, R178). -/
def receiveFrame (line : List BitTime) : AnswerFrame :=
  let heard := line.takeWhile (·.boundary)
  let bits := heard.map (·.middle)
  { words := (List.range (bits.length / 16)).map (fun i => wordOfBits ((bits.drop (16 * i)).take 16))
    tailBits := bits.length % 16, violation := heard.any (·.stray) }

/-- What a trunk interface makes of the echo of its own frame (R58, R137). -/
inductive Echo where
  | clean
  | mismatch
deriving DecidableEq, Repr

/-- Every bit time of a frame, from the first preamble bit to the last CRC bit, was heard as it was transmitted; silence
where the frame has bit times left differs from it (R58, R137). -/
def echoMatches (sent heard : List BitTime) : Bool := sent.isPrefixOf heard

/-! ### Answers -/

/-- Bits that the line delivers after an answer's sync marker (R60). -/
def answerBits (f : AnswerFrame) : Nat := 16 * f.words.length + f.tailBits

/-- The payload words that arrive: those after the header, less the CRC word. In a frame of whole words the last is
the CRC word; where a fragment of a word follows, the last whole word was not the last of the frame (assumption 17). -/
def answerPayload (f : AnswerFrame) : List Word :=
  let afterHeader := (f.words.take 35).drop 2
  if f.tailBits = 0 then afterHeader.dropLast else afterHeader

/-- Fields of an answer header (Table 10-4). -/
structure AnswerHeader where
  station : Nat
  toggleEcho : Bool
  condition : BitVec 8
  length : Nat
deriving DecidableEq, Repr

/-- The answer header from its two words (Table 10-4). -/
def parseAnswerHeader (w0 w1 : Word) : AnswerHeader :=
  { station := field w0 10 6, toggleEcho := bitOf w0 9, condition := w0.extractLsb' 0 8, length := field w1 10 6 }

/-! ## Event records (R184) -/

/-- The eight words of an event record (Table 10-10). -/
def EventRecord.words (r : EventRecord) : List Word :=
  [ BitVec.ofNat 16 (r.round * 64 + trunkField r.trunk * 16 + r.kind.code),
    BitVec.ofNat 16 (r.outcome.code * 256 + r.station), r.item, r.sweep, r.time.extractLsb' 0 16,
    r.time.extractLsb' 16 16, r.detail, 0 ]

end Sys2Proof.Machine
end

