-- ==== Sys2Proof/Machine/Flags.lean ====
section
/-! DEFINITION. Flags: interrupt causes and INT (R158 to R161), the condition byte (Table 10-5), event enables (R152),
and the classes of outcomes (Table 3-4). -/

namespace Sys2Proof.Machine

/-! ## Interrupt causes (Table 11-4) -/

/-- EVENT. -/
def causeEvent : BitVec 5 := 0b00001
/-- WATERMARK. -/
def causeWatermark : BitVec 5 := 0b00010
/-- ENGINE. -/
def causeEngine : BitVec 5 := 0b00100
/-- COMMAND. -/
def causeCommand : BitVec 5 := 0b01000
/-- HOST ERROR. -/
def causeHostError : BitVec 5 := 0b10000

/-- Set causes; a cause already set stays set (R158). -/
def HostPort.raise (p : HostPort) (causes : BitVec 5) : HostPort := { p with irqCause := p.irqCause ||| causes }

/-- Clear causes (R159). -/
def HostPort.clearCauses (p : HostPort) (causes : BitVec 5) : HostPort :=
  { p with irqCause := p.irqCause &&& ~~~causes }

/-- INT is driven low while a cause is both set and enabled, and released while RESET is asserted (R160, R176). -/
def HostPort.intLow (p : HostPort) : Bool := !p.resetAsserted && (p.irqCause &&& p.irqEnable) != 0

/-- The latch records an error only when it is empty, and then sets HOST ERROR (R162). -/
def HostPort.latch (p : HostPort) (code : HostError) (address : HostAddress) : HostPort :=
  if p.errorCode = .none then ({ p with errorCode := code, errorAddress := address }).raise causeHostError else p

/-- A write to HOST ERROR empties the latch and clears its cause (R162). -/
def HostPort.emptyLatch (p : HostPort) : HostPort :=
  ({ p with errorCode := .none, errorAddress := 0 }).clearCauses causeHostError

/-! ## The condition byte (Table 10-5) -/

/-- BUSY. -/
def conditionBusy (c : BitVec 8) : Bool := c.getLsbD 7
/-- FAULT. -/
def conditionFault (c : BitVec 8) : Bool := c.getLsbD 6
/-- ATTENTION. -/
def conditionAttention (c : BitVec 8) : Bool := c.getLsbD 5
/-- RESTARTED. -/
def conditionRestarted (c : BitVec 8) : Bool := c.getLsbD 4
/-- REPEAT. -/
def conditionRepeat (c : BitVec 8) : Bool := c.getLsbD 3

/-! ## Event enables (R152) -/

/-- The bits of EVENT ENABLE that hold an enable: 1 to 12 and 15. -/
def enableMask : Word := 0x9FFE

/-- RING FULL and RESUMED have no enable; every other kind has the bit of its number. -/
def eventEnabled (enable : Word) (kind : EventKind) : Bool :=
  match kind with
  | .ringFull | .resumed => true
  | k => bitOf enable k.code

/-! ## Outcome classes (Table 3-4) -/

/-- GOOD or GOOD REPEAT. -/
def OutcomeCode.isGood (o : OutcomeCode) : Bool :=
  match o with
  | .good | .goodRepeat => true
  | _ => false

/-- Success class. -/
def OutcomeCode.isSuccess (o : OutcomeCode) : Bool :=
  match o with
  | .good | .goodRepeat | .busy => true
  | _ => false

/-- Resynchronising class. -/
def OutcomeCode.isResynchronising (o : OutcomeCode) : Bool :=
  match o with
  | .restarted | .outOfStep => true
  | _ => false

/-- Station-class failure. -/
def OutcomeCode.isStationFailure (o : OutcomeCode) : Bool :=
  match o with
  | .noAnswer | .garbled | .wrongStation | .wrongToggle | .wrongLength => true
  | _ => false

/-- Trunk-class failure. -/
def OutcomeCode.isTrunkFailure (o : OutcomeCode) : Bool :=
  match o with
  | .occupied | .echoFault => true
  | _ => false

/-- The classes that are retried while attempts remain (R66). -/
def OutcomeCode.retried (o : OutcomeCode) : Bool := o.isStationFailure || o.isTrunkFailure

/-- The outcomes for which a point with REPORT writes TRANSFER FAULT: all but GOOD, GOOD REPEAT, BUSY and SENT (R74). -/
def OutcomeCode.isReported (o : OutcomeCode) : Bool := !(o.isSuccess || o == .sent)

end Sys2Proof.Machine
end

