-- ==== Sys2Proof/Machine/Memory.lean ====
section
/-! DEFINITION. The RAM as a list of (address, word) pairs in one canonical form (R166; assumption 1). -/

namespace Sys2Proof.Machine

/-- What an unlisted address reads: the manual says the contents after power-up are unknown, the model says 0
(R166; assumption 1, DESIGN CHOICE, unsafe). -/
def Ram.unlisted : Word := 0

/-- The word at an address. -/
def Ram.read (m : Ram) (a : Nat) : Word :=
  match m with
  | [] => Ram.unlisted
  | (b, v) :: rest => if a = b then v else Ram.read rest a

/-- Put a cell in front, unless it holds what an unlisted address reads. -/
def Ram.cons (a : Nat) (w : Word) (m : Ram) : Ram := if w = Ram.unlisted then m else (a, w) :: m

/-- Store a word, keeping the canonical form. -/
def Ram.write (m : Ram) (a : Nat) (w : Word) : Ram :=
  match m with
  | [] => Ram.cons a w []
  | (b, v) :: rest =>
    if a < b then Ram.cons a w ((b, v) :: rest)
    else if a = b then Ram.cons a w rest
    else (b, v) :: Ram.write rest a w

/-- Every listed address is above `low`, rising, inside the RAM, and holds another word than an unlisted one. -/
def Ram.wfAbove (low : Nat) (m : Ram) : Bool :=
  match m with
  | [] => true
  | (a, w) :: rest => decide (low ≤ a) && decide (a < Config.ramWords) && decide (w ≠ Ram.unlisted)
      && Ram.wfAbove (a + 1) rest

/-- The canonical form. -/
def Ram.wf (m : Ram) : Bool := Ram.wfAbove 0 m

end Sys2Proof.Machine
end

