-- ==== Sys2Proof/Machine/Ops.lean ====
section
/-! DEFINITION. The operations every block shares: reading and writing RAM, records and tables, reporting an event,
completing a command. -/

namespace Sys2Proof.Machine

/-! ## RAM -/

/-- The address lines of the RAM hold 14 bits (R163, R166). -/
def ramAddress (a : Nat) : Nat := a % Config.ramWords

/-- The word at a shared-memory address. -/
def State.readRam (s : State) (a : Nat) : Word := s.ram.read (ramAddress a)

/-- Store a word at a shared-memory address (R166). -/
def State.writeRam (s : State) (a : Nat) (w : Word) : State := { s with ram := s.ram.write (ramAddress a) w }

/-! ## Tables -/

/-- A trunk interface. -/
def State.trunk (s : State) (t : TrunkId) : Trunk :=
  match t with
  | .a => s.trunkA
  | .b => s.trunkB

/-- Replace a trunk interface. -/
def State.setTrunk (s : State) (t : TrunkId) (x : Trunk) : State :=
  { s with trunkA := if t = .a then x else s.trunkA, trunkB := if t = .b then x else s.trunkB }

/-- The other trunk. -/
def otherTrunk (t : TrunkId) : TrunkId :=
  match t with
  | .a => .b
  | .b => .a

/-- The trunk is READY (R146). -/
def State.ready (s : State) (t : TrunkId) : Bool := (s.trunk t).state == .ready

/-- The runtime entry of a point. -/
def State.point (s : State) (p : BitVec 8) : PointEntry := s.points[p.toNat]'p.isLt

/-- Replace the runtime entry of a point. -/
def State.setPoint (s : State) (p : BitVec 8) (e : PointEntry) : State :=
  { s with points := s.points.set p.toNat e p.isLt }

/-- Stations 1 to 62 have a record; 63 has none (R77). -/
abbrev isStation (n : Nat) : Prop := 1 ≤ n ∧ n - 1 < Config.stationCount

/-- The record of a station; a number without a record reads as OFF. -/
def State.station (s : State) (n : Nat) : Station :=
  if h : isStation n then s.stations[n - 1]'h.2 else .reset

/-- Replace the record of a station. -/
def State.setStation (s : State) (n : Nat) (r : Station) : State :=
  { s with stations := if h : isStation n then s.stations.set (n - 1) r h.2 else s.stations }

/-- The value that PLAN A BASE or PLAN B BASE holds (R1). -/
def Settings.planBase (c : Settings) (bank : Bank) : Word :=
  match bank with
  | .a => c.planABase
  | .b => c.planBBase

/-- The base of the active bank (R18). -/
def State.activeBase (s : State) : Nat := (s.eng.active.map (·.base)).getD 0

/-- The IN FLIGHT demand. -/
def State.demandInFlight (s : State) : Option Demand := s.demands.find? (·.inFlight)

/-! ## Causes and the host error latch -/

/-- Set interrupt causes (R158). -/
def State.raise (s : State) (causes : BitVec 5) : State := { s with port := s.port.raise causes }

/-- A faulted access reaches the host error latch (R162). -/
def State.hostError (s : State) (code : HostError) (address : HostAddress) : State :=
  { s with port := s.port.latch code address }

/-! ## The event writer -/

/-- The number of entries of the ring (R147). -/
def Ring.entries (r : Ring) : Nat := 2 ^ r.size.toNat

/-- Where entry position `i` of the ring begins (R147). -/
def Ring.position (r : Ring) (i : Nat) : Nat := r.base.toNat + 8 * i

/-- The write index minus the read index, modulo the number of entries (R149). -/
def Ring.published (r : Ring) : Nat := (r.writeIndex + r.entries - r.readIndex) % r.entries

/-- The published occupancy and the records awaiting storage (R149). -/
def Ring.reserved (r : Ring) : Nat := r.published + r.awaiting.length

/-- Admission of an enabled event (Table 8-2): its own record, the RING FULL record in its place, or a count. -/
def Ring.admission (r : Ring) (record full : EventRecord) : Ring :=
  if r.dropping then { r with dropped := min (r.dropped + 1) 65535 }
  else if r.reserved + 3 ≤ r.entries then { r with awaiting := r.awaiting ++ [record] }
  else { r with awaiting := r.awaiting ++ [full], dropping := true, dropped := 1 }

/-- An event record with the current round index, sweep number and time tag (R153). -/
def State.record (s : State) (kind : EventKind) (trunk : Option TrunkId) (station : Nat) (outcome : OutcomeCode)
    (item detail : Word) : EventRecord :=
  { kind, trunk, round := s.eng.round, station, outcome, item, sweep := s.eng.sweep, time := s.time, detail }

/-- An event arrives at the event writer: filtered by its enable (R152), or admitted (R154). The RING FULL record holds
the kind of the event it displaces in its detail word. -/
def State.report (s : State) (kind : EventKind) (trunk : Option TrunkId) (station : Nat) (outcome : OutcomeCode)
    (item detail : Word) : State :=
  { s with
    ring :=
      if eventEnabled s.ring.enable kind then
        s.ring.admission (s.record kind trunk station outcome item detail)
          (s.record .ringFull none 0 .none 0 (BitVec.ofNat 16 kind.code))
      else s.ring }

/-! ## The Command Unit -/

/-- A command completes: result, detail, READY and the COMMAND cause in one step (R174). -/
def State.complete (s : State) (result : ResultCode) (detail : Word) : State :=
  { s with cmd := { s.cmd with held := none, result, detail }, port := s.port.raise causeCommand }

/-- The owner of the command goes on with work that takes time: the unit is BUSY (R171, R172). -/
def State.holdCommand (s : State) (work : CommandWork) : State :=
  { s with cmd := { s.cmd with held := some { args := s.cmd.args, work } } }

/-- The address of COMMAND (Table 11-1). -/
def commandAddress : HostAddress := 0x0004

/-- A host write of a code to COMMAND (R173): not taken while RESET is asserted (R176), refused with COMMAND OVERRUN
while BUSY, else taken, with CMD RESULT NONE and CMD DETAIL 0, and acted on. -/
def State.takeCommand (s : State) (code : Word) (act : State → State) : State :=
  if s.port.resetAsserted then s
  else if s.cmd.held.isSome then s.hostError .commandOverrun commandAddress
  else act { s with cmd := { s.cmd with code, result := .none, detail := 0 } }

end Sys2Proof.Machine
end

