-- ==== Sys2Proof/Machine/Reads.lean ====
section
/-! DEFINITION. The reads of records, word by word: what each asks for next once it has read so many words, and what it
makes of them (R9 to R12, R21, R110, R119, R123). -/

namespace Sys2Proof.Machine

/-! ## Reading word by word -/

/-- The two registers that the point checks read beside the RAM (R99). -/
inductive PointRegister where
  | count
  | base
deriving DecidableEq, Repr

/-- The value of POINT COUNT or POINT BASE. -/
def Settings.pointRegister (c : Settings) (r : PointRegister) : Word :=
  match r with
  | .count => c.pointCount
  | .base => c.pointBase

/-- A read of records: it ends with a value, samples a register, or asks the arbiter for a word of the RAM, and goes on
with what it got. -/
inductive Reading (α : Type) where
  | done (value : α)
  | register (r : PointRegister) (next : Word → Reading α)
  | word (address : Nat) (next : Word → Reading α)

/-- What a read makes of its end. -/
def Reading.map {α β : Type} (f : α → β) (r : Reading α) : Reading β :=
  match r with
  | .done value => .done (f value)
  | .register p next => .register p (fun w => (next w).map f)
  | .word a next => .word a (fun w => (next w).map f)

/-- A read that goes on with another unless a check has failed. -/
def Reading.andThen {ε α β : Type} (r : Reading (Except ε α)) (f : α → Reading (Except ε β)) : Reading (Except ε β) :=
  match r with
  | .done (.error e) => .done (.error e)
  | .done (.ok value) => f value
  | .register p next => .register p (fun w => (next w).andThen f)
  | .word a next => .word a (fun w => (next w).andThen f)

/-- The address the read asks for next once it has got the given words; none when it has ended. A register is sampled
with the word before it, so its value stands among the words. -/
def Reading.wants {α : Type} (r : Reading α) (got : List Word) : Option Nat :=
  match r, got with
  | .done _, _ => none
  | .register _ next, w :: rest => (next w).wants rest
  | .register _ _, [] => none
  | .word _ next, w :: rest => (next w).wants rest
  | .word a _, [] => some a

/-- The registers that the read samples once it has got the given words, before it asks for another (assumption 7). -/
def Reading.samples {α : Type} (r : Reading α) (c : Settings) (got : List Word) : List Word :=
  match r, got with
  | .done _, _ => []
  | .register _ next, w :: rest => (next w).samples c rest
  | .register p next, [] => c.pointRegister p :: (next (c.pointRegister p)).samples c []
  | .word _ next, w :: rest => (next w).samples c rest
  | .word _ _, [] => []

/-- What the read makes of the words it has got; words still missing are read where they stand now. -/
def Reading.value {α : Type} (r : Reading α) (c : Settings) (m : Ram) (got : List Word) : α :=
  match r, got with
  | .done value, _ => value
  | .register _ next, w :: rest => (next w).value c m rest
  | .register p next, [] => (next (c.pointRegister p)).value c m []
  | .word _ next, w :: rest => (next w).value c m rest
  | .word a next, [] => (next (m.read a)).value c m []

/-! ## Point records (R12, R100) -/

/-- The two page addresses at `a`, if the function uses them; else they are not read, and stand as 0 (R100). -/
def readPages {α : Type} (used : Bool) (a : Nat) (next : Word → Word → Reading α) : Reading α :=
  if used then .word (ramAddress a) fun page0 => .word (ramAddress (a + 1)) fun page1 => next page0 page1
  else next 0 0

/-- The record at an address: its words in rising order, as far as the checks 14 to 18 come, and of them the words with
the fields that its function uses (R100, R119, Table 1-9; assumption 31). -/
def readPoint (a : Nat) : Reading (Except Nat PointRecord) :=
  .word (ramAddress a) fun w0 =>
    match pointFunction w0 with
    | .error code => .done (.error code)
    | .ok f =>
      .word (ramAddress (a + 1)) fun w1 => .word (ramAddress (a + 2)) fun w2 =>
        if f.lengthsLegal w2 then
          readPages f.usesIn (a + 3) fun in0 in1 => readPages f.usesOut (a + 5) fun out0 out1 =>
            .done (pointRecord f w0 w1 w2 in0 in1 out0 out1).pagesChecked
        else .done (.error 17)

/-- The record check of a post, codes 14 to 18: POINT COUNT was compared when the command was taken (R119). -/
def checkRecord (p : BitVec 8) : Reading (Except Nat PointRecord) :=
  .register .base fun base => readPoint (base.toNat + 8 * p.toNat)

/-- The point checks 13 to 18 (Table 1-9): the number against POINT COUNT, then the record at POINT BASE + 8 × number.
The check code of the first that fails, or the record. -/
def checkPoint (p : BitVec 8) : Reading (Except Nat PointRecord) :=
  .register .count fun count => if count.toNat ≤ p.toNat then .done (.error 13) else checkRecord p

/-- The station of the record is the one the entry keeps: code 19, DEMAND STATION, where it is not (R123). -/
def checkStation (d : Demand) (r : Except Nat PointRecord) : Except Nat PointRecord :=
  match r with
  | .error code => .error code
  | .ok r => if r.station = d.station then .ok r else .error 19

/-- The checks of a taken demand's record: 13 to 18, then 19 (R123). -/
def checkDemand (d : Demand) : Reading (Except Nat PointRecord) := (checkPoint d.point).map (checkStation d)

/-- What a point command reads of a record: words 0 and 1, with its function and flags (R110). -/
def readPointHead (p : BitVec 8) : Reading (Word × Word) :=
  .register .base fun base => .word (ramAddress (base.toNat + 8 * p.toNat)) fun w0 =>
    .word (ramAddress (base.toNat + 8 * p.toNat + 1)) fun w1 => .done (w0, w1)

/-! ## Validation (R9) -/

/-- The header as validation reads it, once the checks of codes 1 to 5 have passed (R2, R10). -/
structure PlanHeader where
  roundCount : Nat
  roundPeriod : Nat
  answerWindow : Nat
  policy : OverrunPolicy
  slotTotal : Nat
deriving DecidableEq, Repr

/-- A header check that failed, with index 0 (R10). -/
def headerFailure {α : Type} (code : Nat) : Reading (Except CheckFailure α) := .done (.error { code, index := 0 })

/-- The header checks, codes 1 to 5 in order (Table 1-7). -/
def checkHeader (base : Nat) : Reading (Except CheckFailure PlanHeader) :=
  .word (ramAddress base) fun w0 =>
    if w0 = 0 || 64 < w0.toNat then headerFailure 1
    else .word (ramAddress (base + 1)) fun w1 =>
      if w1.toNat < 10 then headerFailure 2
      else .word (ramAddress (base + 2)) fun w2 =>
        if w2.toNat < 4 || 255 < w2.toNat then headerFailure 3
        else .word (ramAddress (base + 3)) fun w3 =>
          match policyOf w3 with
          | none => headerFailure 4
          | some policy =>
            .word (ramAddress (base + 4)) fun w4 =>
              if 512 < w4.toNat then headerFailure 5
              else
                .done (.ok
                  { roundCount := w0.toNat, roundPeriod := w1.toNat, answerWindow := w2.toNat, policy
                    slotTotal := w4.toNat })

/-- The directory checks for `rounds` rounds from round `r` on, of which the rounds before hold `sum` slots: codes 6 and
7 for each round, then 8 for the sum (R3, Table 1-7). -/
def checkDirectory (base total r sum rounds : Nat) : Reading (Except CheckFailure (List DirectoryEntry)) :=
  match rounds with
  | 0 => .done (if sum = total then .ok [] else .error { code := 8, index := 0 })
  | rest + 1 =>
    .word (ramAddress (base + 8 + r)) fun w =>
      let entry := directoryOf w
      if 64 < entry.count then .done (.error { code := 6, index := r })
      else if 1 ≤ entry.count ∧ entry.first ≠ sum then .done (.error { code := 7, index := r })
      else (checkDirectory base total (r + 1) (sum + entry.count) rest).map (fun d => d.map (entry :: ·))

/-- Where slot record `i` begins in a bank (Table 1-4). -/
def slotOffset (i : Nat) : Nat := 72 + 2 * i

/-- Slot record `i`, and its checks 9 to 12 (R11): word 0, then word 1 but for the kinds that do not use it (R21, Table
10-8; assumption 35). -/
def readSlot (base i : Nat) : Reading (Except Nat SlotRecord) :=
  .word (ramAddress (base + slotOffset i)) fun w0 =>
    if readsSlotWord1 w0 then .word (ramAddress (base + slotOffset i + 1)) fun w1 => .done (parseSlot w0 w1)
    else .done (parseSlot w0 0)

/-- A failed slot check carries the slot's index (R11). -/
def slotFailure (i : Nat) (r : Except Nat SlotRecord) : Except CheckFailure SlotRecord :=
  match r with
  | .error code => .error { code, index := i }
  | .ok record => .ok record

/-- The point that a slot record names, if it is a TRANSFER slot's. -/
def SlotRecord.point (r : SlotRecord) : Option (BitVec 8) :=
  match r.work with
  | .transfer p _ _ => some p
  | .openSlot | .sync | .pause _ => none

/-- The slot record checks for `slots` records from slot `i` on (R11); the TRANSFER slots with the point each names. -/
def checkSlots (base i slots : Nat) : Reading (Except CheckFailure (List (Nat × BitVec 8))) :=
  match slots with
  | 0 => .done (.ok [])
  | rest + 1 =>
    ((readSlot base i).map (slotFailure i)).andThen fun record =>
      match record.point with
      | some p => (checkSlots base (i + 1) rest).map (fun d => d.map ((i, p) :: ·))
      | none => checkSlots base (i + 1) rest

/-- A failed point check: the index is the slot for code 13 and the point for the others (R12). -/
def pointFailure {α : Type} (slot : Nat) (p : BitVec 8) (r : Except Nat α) : Except CheckFailure α :=
  match r with
  | .error code => .error { code, index := if code = 13 then slot else p.toNat }
  | .ok value => .ok value

/-- The point checks of the TRANSFER slots in ascending slot index, codes 13 to 18 (R12). -/
def checkPoints (named : List (Nat × BitVec 8)) : Reading (Except CheckFailure Unit) :=
  match named with
  | [] => .done (.ok ())
  | (slot, p) :: rest => ((checkPoint p).map (pointFailure slot p)).andThen (fun _ => checkPoints rest)

/-- The geometry that a valid bank is kept with (R18). -/
def PlanHeader.geometry (h : PlanHeader) (bank : Bank) (base : Nat) (directory : List DirectoryEntry) : Geometry :=
  { bank, base, roundCount := h.roundCount, roundPeriod := h.roundPeriod, answerWindow := h.answerWindow
    policy := h.policy, slotTotal := h.slotTotal, directory }

/-- Validation of a bank at a captured base: header, directory, slot records, point records; the first check that fails,
or the geometry it read (R9). -/
def validateBank (bank : Bank) (base : Nat) : Reading (Except CheckFailure Geometry) :=
  (checkHeader base).andThen fun h =>
    (checkDirectory base h.slotTotal 0 0 h.roundCount).andThen fun directory =>
      (checkSlots base 0 h.slotTotal).andThen fun named =>
        (checkPoints named).map (fun r => r.map (fun _ => h.geometry bank base directory))

/-! ## The re-check at slot start (R21) -/

/-- What a slot start reads: the slot record, and a TRANSFER slot's point with its record. -/
structure SlotStart where
  slot : SlotRecord
  point : Option PointRecord
deriving DecidableEq, Repr

/-- The re-check of a slot and its point, in the order of validation (R21). -/
def recheckSlot (base i : Nat) : Reading (Except CheckFailure SlotStart) :=
  ((readSlot base i).map (slotFailure i)).andThen fun slot =>
    match slot.point with
    | some p => ((checkPoint p).map (pointFailure i p)).map (fun r => r.map (fun r => { slot, point := some r }))
    | none => .done (.ok { slot, point := none })

/-! ## The reads in progress -/

/-- A read without its result. -/
def Reading.steps {α : Type} (r : Reading α) : Reading Unit := r.map (fun _ => ())

/-- The read of the engine that goes with the slot in progress (R21, R123). -/
def State.engineReading (s : State) : Reading Unit :=
  match s.eng.phase, s.demandInFlight with
  | .reading _, _ => (recheckSlot s.activeBase s.eng.slot).steps
  | .demandReading _, some d => (checkDemand d).steps
  | _, _ => .done ()

/-- The read of the held command (R9, R110, R119). -/
def State.commandReading (s : State) : Reading Unit :=
  match s.cmd.held.map (fun h : HeldCommand => h.work) with
  | some (.validation _ bank base) => (validateBank bank base).steps
  | some (.pointRead _ p) => (readPointHead p).steps
  | some (.postCheck p _ _ _) => (checkRecord p).steps
  | _ => .done ()

/-- The engine begins to read records. -/
def State.beginEngineRead (s : State) : State :=
  { s with traffic := { s.traffic with engine := some (s.engineReading.samples s.set []) } }

/-- A held command begins to read records. -/
def State.beginCommandRead (s : State) : State :=
  { s with traffic := { s.traffic with command := some (s.commandReading.samples s.set []) } }

/-- The engine's read has ended, or is given up. -/
def State.endEngineRead (s : State) : State := { s with traffic := { s.traffic with engine := none } }

/-- A held command's read has ended. -/
def State.endCommandRead (s : State) : State := { s with traffic := { s.traffic with command := none } }

/-- What a read makes of the words that the engine's read has got. -/
def State.engineFinds {α : Type} (s : State) (r : Reading α) : α := r.value s.set s.ram (s.traffic.engine.getD [])

/-- What a read makes of the words that the held command's read has got. -/
def State.commandFinds {α : Type} (s : State) (r : Reading α) : α := r.value s.set s.ram (s.traffic.command.getD [])

end Sys2Proof.Machine
end

