-- ==== Sys2Proof/Machine/Arbiter.lean ====
section
/-! DEFINITION. The arbiter (R169): its choice, the access each rotating requester makes when it is granted, and the
grants between two commands. A line-path access is granted as soon as it waits, and the rotation stands meanwhile. -/

namespace Sys2Proof.Machine

/-! ## The choice -/

/-- Who is granted: the line path, or a rotating requester (Table 9-2). -/
inductive Grant where
  | line
  | rotating (r : Requester)
deriving DecidableEq, Repr

/-- The rotating requesters with an access waiting. -/
structure Waiting where
  engine : Bool
  command : Bool
  eventWriter : Bool
  hostPort : Bool
deriving DecidableEq, Repr

/-- The requester has an access waiting. -/
def Waiting.asks (w : Waiting) (r : Requester) : Bool :=
  match r with
  | .engine => w.engine
  | .command => w.command
  | .eventWriter => w.eventWriter
  | .hostPort => w.hostPort

/-- The requester has an access waiting too. -/
def Waiting.and (w : Waiting) (r : Requester) : Waiting :=
  match r with
  | .engine => { w with engine := true }
  | .command => { w with command := true }
  | .eventWriter => { w with eventWriter := true }
  | .hostPort => { w with hostPort := true }

/-- The requester that follows in the cyclic order engine, command, event writer, host port (R169). -/
def Requester.next (r : Requester) : Requester :=
  match r with
  | .engine => .command
  | .command => .eventWriter
  | .eventWriter => .hostPort
  | .hostPort => .engine

/-- The first waiting requester among the next `n` that follow `last` in the cyclic order. -/
def firstWaiting (w : Waiting) (last : Requester) (n : Nat) : Option Requester :=
  match n with
  | 0 => none
  | k + 1 => if w.asks last.next then some last.next else firstWaiting w last.next k

/-- The arbiter's grant when the RAM is free: a waiting line-path access first, else the rotation (R169). -/
def arbitrate (line : Bool) (w : Waiting) (last : Requester) : Option Grant :=
  if line then some .line else (firstWaiting w last 4).map Grant.rotating

/-! ## The accesses -/

/-- The words of a read after the one it asks for next has been fetched, with the registers sampled then. -/
def State.fetch (s : State) (r : Reading Unit) (got : List Word) : List Word :=
  match r.wants got with
  | none => got
  | some a => got ++ [s.ram.read a] ++ r.samples s.set (got ++ [s.ram.read a])

/-- The event writer stores the next word of the record at the head of its list (R149). -/
def State.storeEventWord (s : State) : State :=
  match s.ring.awaiting with
  | [] => s
  | record :: _ =>
    { s.writeRam (s.ring.position s.ring.writeIndex + s.traffic.stored) (record.words.getD s.traffic.stored 0) with
      traffic := { s.traffic with stored := s.traffic.stored + 1 } }

/-- The access of a rotating requester that is granted; the host port's own is the host's command (R166). -/
def State.access (s : State) (r : Requester) : State :=
  match r with
  | .engine => { s with traffic := { s.traffic with engine := s.traffic.engine.map (s.fetch s.engineReading) } }
  | .command => { s with traffic := { s.traffic with command := s.traffic.command.map (s.fetch s.commandReading) } }
  | .eventWriter => s.storeEventWord
  | .hostPort => s

/-- A rotating requester is granted: its access is made, and the rotation stands at it (R169). -/
def State.grant (s : State) (r : Requester) : State := { s.access r with lastGrant := r }

/-- The engine has words to read. -/
def State.engineAsks (s : State) : Bool := s.traffic.engine.any (fun got => (s.engineReading.wants got).isSome)

/-- The held command has words to read. -/
def State.commandAsks (s : State) : Bool := s.traffic.command.any (fun got => (s.commandReading.wants got).isSome)

/-- The event writer has words to store, but for the eighth, which publishes: EVENT_RECORD_PUBLISHED asks for it (R149;
assumption 10). -/
def State.writerAsks (s : State) : Bool := !s.ring.awaiting.isEmpty && decide (s.traffic.stored < 7)

/-- The accesses that wait: a requester that has more to read or store asks for its next access at once (assumption 13).
The host port's waits only within the host's own command. -/
def State.waiting (s : State) : Waiting :=
  { engine := s.engineAsks, command := s.commandAsks, eventWriter := s.writerAsks, hostPort := false }

/-! ## Grants -/

/-- The grants that stand before the turn of a waiting requester, at most `n` of them. -/
def State.untilTurn (s : State) (r : Requester) (n : Nat) : State :=
  match n with
  | 0 => s
  | k + 1 =>
    match arbitrate false (s.waiting.and r) s.lastGrant with
    | some (.rotating q) => if q = r then s else (s.grant q).untilTurn r k
    | _ => s

/-- The next access of a requester is granted in its turn, after at most one of each other (R169, R170). -/
def State.serve (s : State) (r : Requester) : State := (s.untilTurn r 3).grant r

/-- The next `n` accesses of a requester are granted, each in its turn. -/
def State.serveMany (s : State) (r : Requester) (n : Nat) : State :=
  match n with
  | 0 => s
  | k + 1 => (s.serve r).serveMany r k

/-- The engine's read goes on to its end, of at most `n` words. -/
def State.engineReadsOn (s : State) (n : Nat) : State :=
  match n with
  | 0 => s
  | k + 1 => if s.engineAsks then (s.serve .engine).engineReadsOn k else s

/-- The held command's read goes on to its end, of at most `n` words. -/
def State.commandReadsOn (s : State) (n : Nat) : State :=
  match n with
  | 0 => s
  | k + 1 => if s.commandAsks then (s.serve .command).commandReadsOn k else s

/-- `n` grants to the rotating requesters that wait (R169). -/
def State.grants (s : State) (n : Nat) : State :=
  match n with
  | 0 => s
  | k + 1 =>
    match arbitrate false s.waiting s.lastGrant with
    | some (.rotating q) => (s.grant q).grants k
    | _ => s

/-- The part after the grants of a stretch of time, as many as the free value says; nothing is granted while RESET is
asserted, or while nothing waits (R169; assumption 7). -/
def State.served (s : State) : State :=
  if s.port.resetAsserted || !(s.engineAsks || s.commandAsks || s.writerAsks) then s
  else
    { s.grants (Config.grants s.traffic.token) with
      traffic := { (s.grants (Config.grants s.traffic.token)).traffic with token := s.traffic.token + 1 } }

end Sys2Proof.Machine
end

