-- ==== Sys2Proof/Machine/Time.lean ====
section
/-! DEFINITION. Time: the bit time, and what passes with the microseconds of the time base (R48): the timers count down,
the words of a call are read and the words of an answer stored as the line comes to them (R57, R61). An event that the
part times itself happens at its due moment, so its meaning first lets the time left to it pass (assumption 3). -/

namespace Sys2Proof.Machine

/-- Half microseconds per bit time: 2 µs, 1 µs or 0.5 µs (R143). -/
def State.halfMicros (s : State) : Nat :=
  match s.set.trunkRate.toNat with
  | 0 => 4
  | 1 => 2
  | _ => 1

/-- The microseconds that `n` bit times last, the last one begun counted whole. -/
def State.bitTimes (s : State) (n : Nat) : Nat := (n * s.halfMicros + 1) / 2

/-- How many payload words of a call have been read once `elapsed` microseconds have passed since its first preamble
bit: word `i` is needed at bit time 56 + 16i (R57, R178; assumption 18). -/
def wordsNeeded (halfMicros elapsed length : Nat) : Nat :=
  if 2 * elapsed < 56 * halfMicros then 0 else min length ((2 * elapsed - 56 * halfMicros) / (16 * halfMicros) + 1)

/-- How many payload words of an answer have arrived whole once `elapsed` microseconds have passed since the first bit
time of its sync marker: word `i` is whole at bit time 8 + 32 + 16(i + 1) (R61, R178; assumption 18). -/
def wordsArrived (halfMicros elapsed length : Nat) : Nat :=
  min length ((2 * elapsed - (Config.syncBits + Config.headerBits) * halfMicros) / (16 * halfMicros))

/-- The outgoing page T of a transfer's point (R57). -/
def State.sendPage (s : State) (x : Transfer) : Nat :=
  match x.values with
  | some r => r.outPage (s.point x.point).transmit
  | none => 0

/-- The gap, and the time without activity that makes a line quiet: 8 bit times, in microseconds (R56, R132). -/
def State.gapTime (s : State) : Nat := s.bitTimes Config.gapBits

/-- Microseconds left of the gap after the end of the last frame on a line, if nothing more is heard. A frame that is
still on the line is not the last one: its end begins the gap anew only if it comes before the gap has passed (R56,
R132). -/
def State.gapLeft (s : State) (t : TrunkId) : Nat :=
  let left := (s.trunk t).gapHold - (Config.longestGap - s.gapTime)
  let frame := (s.trunk t).frameLeft
  if 0 < frame && frame < left then max left (frame + s.gapTime) else left

/-- Microseconds until a line is quiet, if nothing more is heard (R132). -/
def State.quietLeft (s : State) (t : TrunkId) : Nat := (s.trunk t).quietHold - (Config.longestGap - s.gapTime)

/-- The transmit path reads the next `n` payload words of a call from its page as the line comes to them, and the other
requesters are served in between; words already read stand as they were read (R57, R115, R169). -/
def State.readPayload (s : State) (page : Nat) (payload : List Word) (n : Nat) : State × List Word :=
  match n with
  | 0 => (s, payload)
  | k + 1 => s.served.readPayload page (payload ++ [s.readRam (page + payload.length)]) k

/-- The receive path stores words of an answer at consecutive addresses as they arrive, and the other requesters are
served in between (R61, R169). -/
def State.storeAnswer (s : State) (a : Nat) (words : List Word) : State :=
  match words with
  | [] => s
  | w :: rest => (s.writeRam a w).served.storeAnswer (a + 1) rest

/-- The wait for quiet `n` microseconds on, on a line that is quiet in `quiet` microseconds: the guard lapses where it
runs out before that (R55, R56). -/
def waitForQuiet (guardLeft : Nat) (lapsed : Bool) (quiet n : Nat) : AttemptPhase :=
  .occupancy (guardLeft - n) (lapsed || (decide (guardLeft < quiet) && decide (guardLeft ≤ n)))

/-- The in length of a transfer's point, 0 where it has no values. -/
def Transfer.inLength (x : Transfer) : Nat :=
  match x.values with
  | some r => if r.function.usesIn then r.inLength else 0
  | none => 0

/-- What `n` microseconds bring to the attempt in flight: the guard is sampled at the end of the gap (R55), the windows
count down, words are read and stored. -/
def State.elapseAttempt (s : State) (n : Nat) : State :=
  match s.xfer with
  | none => s
  | some x =>
    match x.phase with
    | .gap =>
      let gap := s.gapLeft x.trunk
      if gap ≤ n then
        { s with
          xfer := some
            { x with phase := waitForQuiet s.set.occupancyGuard.toNat false (s.quietLeft x.trunk - gap) (n - gap) } }
      else s
    | .occupancy left lapsed =>
      { s with xfer := some { x with phase := waitForQuiet left lapsed (s.quietLeft x.trunk) n } }
    | .sending elapsed h0 h1 length payload =>
      let read :=
        s.readPayload (s.sendPage x) payload (wordsNeeded s.halfMicros (elapsed + n) length - payload.length)
      { read.1 with xfer := some { x with phase := .sending (elapsed + n) h0 h1 length read.2 } }
    | .window left => { s with xfer := some { x with phase := .window (left - n) } }
    | .receiving elapsed frame page stored =>
      let payload := answerPayload frame
      let want := wordsArrived s.halfMicros (elapsed + n) (min payload.length x.inLength)
      let moved := { s with xfer := some { x with phase := .receiving (elapsed + n) frame page (max stored want) } }
      match page with
      | none => moved
      | some address => moved.storeAnswer (address + stored) ((payload.take want).drop stored)

/-- A trunk interface `n` microseconds later. -/
def Trunk.elapse (t : Trunk) (n : Nat) : Trunk :=
  { t with
    timer := t.timer.map (· - n)
    burst :=
      match t.burst with
      | .sending left => .sending (left - n)
      | .waiting => .waiting
      | .none => .none
    gapHold :=
      if 0 < t.frameLeft && t.frameLeft ≤ n then max (t.gapHold - n) (Config.longestGap - (n - t.frameLeft))
      else t.gapHold - n
    quietHold := t.quietHold - n
    frameLeft := t.frameLeft - n }

/-- The engine's timers `n` microseconds later (R33, R6). -/
def Engine.elapse (e : Engine) (n : Nat) : Engine :=
  { e with
    timer :=
      match e.timer with
      | .running left => .running (left - n)
      | .stopped => .stopped
      | .expired => .expired
    phase :=
      match e.phase with
      | .pausing left => .pausing (left - n)
      | .none => .none
      | .reading elapsed => .reading (elapsed + n)
      | .demandReading retries => .demandReading retries
      | .transferring => .transferring }

/-- A held command's work `n` microseconds later: the bound of R29 counts down. -/
def CommandWork.elapse (w : CommandWork) (n : Nat) : CommandWork :=
  match w with
  | .abortWait t left => .abortWait t (left - n)
  | .resetWait t left => .resetWait t (left - n)
  | .validation forSwitch bank base => .validation forSwitch bank base
  | .pointRead command point => .pointRead command point
  | .postCheck point high deadline tag => .postCheck point high deadline tag
  | .trunkHeld command t => .trunkHeld command t

/-- The Command Unit `n` microseconds later. -/
def CommandUnit.elapse (c : CommandUnit) (n : Nat) : CommandUnit :=
  { c with held := c.held.map (fun h => { h with work := h.work.elapse n }) }

/-- `n` microseconds of the time base pass with nothing taken (R48). -/
def State.elapse (s : State) (n : Nat) : State :=
  let moved := s.elapseAttempt n
  { moved with
    time := moved.time + BitVec.ofNat 32 n
    eng := moved.eng.elapse n
    cmd := moved.cmd.elapse n
    trunkA := moved.trunkA.elapse n
    trunkB := moved.trunkB.elapse n }

/-- One microsecond: the time base does not count while RESET is asserted (R48, R176; assumptions 2 and 9). -/
def State.tick (s : State) : State := if s.port.resetAsserted then s else s.served.elapse 1

end Sys2Proof.Machine
end

