-- ==== Sys2Proof/Machine/Lines.lean ====
section
/-! DEFINITION. The trunk interfaces: activity and quiet (R132), training (R133, R136 to R138), the fault count (R139)
and the two trunk commands (R133 to R135). -/

namespace Sys2Proof.Machine

/-! ## Activity and quiet (R132) -/

/-- A frame of another talker is on the line: it ends `duration` microseconds from now, which then is the end of the
last frame, and activity goes on for `activity` microseconds (R132). -/
def Trunk.hearFrame (t : Trunk) (duration activity : Nat) : Trunk :=
  { t with
    gapHold := if duration = 0 then max t.gapHold Config.longestGap else t.gapHold
    quietHold := max t.quietHold (activity + Config.longestGap)
    frameLeft := max t.frameLeft duration }

/-- Noise at this moment breaks the quiet, and does not move the end of the last frame (R132). -/
def Trunk.hearNoise (t : Trunk) : Trunk := { t with quietHold := max t.quietHold Config.longestGap }

/-- The part's own transmission is cut off where it stands: its frame ends at this moment, and what another talker sends
goes on. -/
def Trunk.cutLine (t : Trunk) : Trunk :=
  { t with gapHold := Config.longestGap, quietHold := t.frameLeft + Config.longestGap }

/-- The part transmits a frame of `duration` microseconds from this moment, and nobody else has been heard during it. -/
def Trunk.transmit (t : Trunk) (duration : Nat) : Trunk :=
  { t with
    gapHold := max t.gapHold (duration + Config.longestGap), quietHold := max t.quietHold (duration + Config.longestGap)
    overlapped := false }

/-- A burst is on the line. -/
def BurstPhase.onLine (b : BurstPhase) : Bool :=
  match b with
  | .sending _ => true
  | .none => false
  | .waiting => false

/-- A call is on the line. -/
def AttemptPhase.onLine (p : AttemptPhase) : Bool :=
  match p with
  | .sending _ _ _ _ _ => true
  | .gap => false
  | .occupancy _ _ => false
  | .window _ => false
  | .receiving _ _ _ _ => false

/-- The part is transmitting on the trunk: a burst, or the call of the attempt in flight. -/
def State.transmitting (s : State) (t : TrunkId) : Bool :=
  (s.trunk t).burst.onLine || s.xfer.any (fun x => x.trunk == t && x.phase.onLine)

/-- A line with activity that its receiver hears now. -/
def State.hear (s : State) (t : Trunk) (activity : Activity) : Trunk :=
  match activity with
  | .frame bits => t.hearFrame (s.bitTimes bits) (s.bitTimes bits)
  | .noise => t.hearNoise

/-- A receiver hears activity that is not an accepted answer (LINE_ACTIVITY); during the part's own transmission it
makes the echo a mismatch (R58, R137). -/
def State.lineActivity (s : State) (t : TrunkId) (activity : Activity) : State :=
  s.setTrunk t { s.hear (s.trunk t) activity with overlapped := (s.trunk t).overlapped || s.transmitting t }

/-- What the interface makes of the echo of its own frame: a bit time heard otherwise than it was transmitted, or not
heard, or another talker's activity during the frame, is a mismatch (R58, R137). -/
def Trunk.judge (t : Trunk) (sent heard : List BitTime) : Echo :=
  if t.overlapped || !echoMatches sent heard then .mismatch else .clean

/-! ## Changes of an interface's state (R144) -/

/-- TRUNK STATE causes (Table 7-2). -/
def trunkCauseTrain : Nat := 1
/-- OFF. -/
def trunkCauseOff : Nat := 2
/-- TRAINED. -/
def trunkCauseTrained : Nat := 3
/-- TIMEOUT. -/
def trunkCauseTimeout : Nat := 4
/-- FAULT LIMIT. -/
def trunkCauseFaultLimit : Nat := 5

/-- A TRUNK STATE event with the causes that carry station 0, outcome NONE and point 0 (R144). -/
def State.reportTrunk (s : State) (t : TrunkId) (old new : TrunkState) (cause : Nat) : State :=
  s.report .trunkState (some t) 0 .none 0 (stateChange old.code new.code cause)

/-- A burst on the line is cut off where it stands, and its echo is not judged (R133, R134, R138). -/
def Trunk.dropBurst (t : Trunk) : Trunk :=
  match t.burst with
  | .sending _ => { t.cutLine with burst := .none }
  | .waiting => { t with burst := .none }
  | .none => t

/-- The interface enters TRAINING, or restarts it: counts 0, the timer loaded, the first burst due at once (R133). -/
def State.trainingStart (s : State) (t : Trunk) : Trunk :=
  { t.dropBurst with
    state := .training, faults := 0, training := 0, timer := some (s.set.trainingTimeout.toNat * 10000)
    burst := .waiting, burstDue := some (s.time + BitVec.ofNat 32 Config.burstInterval) }

/-- The interface leaves TRAINING or READY for a state without timer and bursts; its counts are kept (R131, R134,
R138). -/
def Trunk.leave (t : Trunk) (new : TrunkState) : Trunk :=
  { t.dropBurst with state := new, timer := none, burstDue := none }

/-! ## The trunk commands, at the moment they take effect (R133, R134) -/

/-- TRUNK TRAIN takes effect and completes. -/
def State.trainEffect (s : State) (t : TrunkId) : State :=
  let old := (s.trunk t).state
  let next := s.setTrunk t (s.trainingStart (s.trunk t))
  if old = .training then next.complete .done (BitVec.ofNat 16 old.code)
  else (next.reportTrunk t old .training trunkCauseTrain).complete .done (BitVec.ofNat 16 old.code)

/-- TRUNK OFF takes effect and completes. -/
def State.offEffect (s : State) (t : TrunkId) : State :=
  let old := (s.trunk t).state
  if old = .off then s.complete .done 0
  else ((s.setTrunk t ((s.trunk t).leave .off)).reportTrunk t old .off trunkCauseOff).complete .done
    (BitVec.ofNat 16 old.code)

/-- A trunk command takes effect. -/
def State.trunkEffect (s : State) (command : TrunkCommand) (t : TrunkId) : State :=
  match command with
  | .train => s.trainEffect t
  | .off => s.offEffect t

/-- An attempt of a transfer is in flight on the trunk (R135). -/
def State.attemptOn (s : State) (t : TrunkId) : Bool :=
  match s.xfer with
  | some x => x.trunk == t
  | none => false

/-- A trunk command is taken: held while an attempt is in flight on the trunk it names, else it takes effect (R135). -/
def State.trunkCommand (s : State) (command : TrunkCommand) : State :=
  match trunkOfOperand s.cmd.args.arg0 with
  | none => s.complete .badOperand 0
  | some t => if s.attemptOn t then s.holdCommand (.trunkHeld command t) else s.trunkEffect command t

/-- A trunk command held for the attempt on `t` takes effect and completes (R135). -/
def State.releaseHeldTrunk (s : State) (t : TrunkId) : State :=
  match s.cmd.held with
  | some h =>
    match h.work with
    | .trunkHeld command held => if held = t then s.trunkEffect command t else s
    | _ => s
  | none => s

/-! ## The line result of an attempt (R65, R139) -/

/-- The attempt reports to its trunk's interface: a trunk-class fault raises the fault count and may reach the limit, a
clean echo clears it. -/
def State.lineReport (s : State) (x : Transfer) (outcome : OutcomeCode) : State :=
  let t := s.trunk x.trunk
  if outcome.isTrunkFailure then
    let counted := { t with faults := t.faults + 1 }
    if s.set.trunkFaultLimit.toNat ≤ counted.faults then
      (s.setTrunk x.trunk (counted.leave .failed)).report .trunkState (some x.trunk) x.station outcome
        (x.point.setWidth 16) (stateChange t.state.code TrunkState.failed.code trunkCauseFaultLimit)
    else s.setTrunk x.trunk counted
  else s.setTrunk x.trunk { t with faults := 0 }

end Sys2Proof.Machine
end

