-- ==== Sys2Proof/Machine/Stations.lean ====
section
/-! DEFINITION. The station table: enabling and disabling (R82 to R84), the health evaluation (R85 to R94), conditions
(R95), the probe countdown (R90, R91) and ENGINE RESET (R97). -/

namespace Sys2Proof.Machine

/-- STATION STATE causes (Table 4-5). -/
def stationCauseOutcome : Nat := 1
/-- IDENTITY. -/
def stationCauseIdentity : Nat := 2
/-- ENABLE. -/
def stationCauseEnable : Nat := 3
/-- DISABLE. -/
def stationCauseDisable : Nat := 4

/-- ONLINE or SUSPECT: the station is called, and its demands are eligible (Table 4-4). -/
def StationState.called (s : StationState) : Bool :=
  match s with
  | .online | .suspect => true
  | .off | .absent | .confirming => false

/-! ## Commands -/

/-- An OFF station put into service on a trunk (R82). -/
def Station.enabled (r : Station) (t : TrunkId) : Station :=
  { r with
    state := .absent, preferredTrunk := t, currentTrunk := t, nextToggle := false, failureRun := 0, confirmCount := 0
    probeCountdown := 0, lastCondition := 0, mismatch := false }

/-- A station taken out of service (R83). -/
def Station.disabled (r : Station) : Station := { r with state := .off, failureRun := 0, confirmCount := 0 }

/-- ENGINE RESET on one record (R97). -/
def Station.engineReset (r : Station) : Station :=
  if r.state = .off then r
  else
    { r with
      state := .absent, failureRun := 0, confirmCount := 0, probeCountdown := 0, nextToggle := false
      currentTrunk := r.preferredTrunk, lastCondition := 0, mismatch := false }

/-- The station number that an argument names: 1 to 62 (R82, R83). -/
def stationOfOperand (w : Word) : Option Nat := if 1 ≤ w.toNat ∧ w.toNat ≤ Config.stationCount then some w.toNat else none

/-- STATION ENABLE, taken (R82). -/
def State.stationEnable (s : State) : State :=
  match stationOfOperand s.cmd.args.arg0, trunkOfOperand s.cmd.args.arg1 with
  | some n, some t =>
    let r := s.station n
    if r.state = .off then
      ((s.setStation n (r.enabled t)).report .stationState none n .none 0
        (stateChange r.state.code StationState.absent.code stationCauseEnable)).complete .done 0
    else s.complete .refusedState (BitVec.ofNat 16 r.state.code)
  | _, _ => s.complete .badOperand 0

/-- A POINT or PROBE transfer to the station in progress is detached (R84). -/
def State.detach (s : State) (n : Nat) : State :=
  match s.xfer with
  | some x =>
    if x.station = n ∧ (x.kind = .point ∨ x.kind = .probe) then { s with xfer := some { x with detached := true } } else s
  | none => s

/-- STATION DISABLE, taken (R83, R84). -/
def State.stationDisable (s : State) : State :=
  match stationOfOperand s.cmd.args.arg0 with
  | none => s.complete .badOperand 0
  | some n =>
    let r := s.station n
    if r.state = .off then s.complete .done 0
    else
      (((s.setStation n r.disabled).report .stationState none n .none 0
        (stateChange r.state.code StationState.off.code stationCauseDisable)).detach n).complete .done 0

/-! ## The health evaluation -/

/-- A failure run count one higher, saturating at 15, against the thresholds (R87). -/
def Station.failed (r : Station) (suspectAfter absentAfter : Nat) : Station :=
  let run := min (r.failureRun + 1) 15
  if absentAfter ≤ run then { r with state := .absent, failureRun := 0, probeCountdown := 0 }
  else if suspectAfter ≤ run then { r with state := .suspect, failureRun := run }
  else { r with failureRun := run }

/-- The toggle and trunk changes of a good POINT transfer (R68, R73, R78). -/
def Station.delivered (r : Station) (outcome : OutcomeCode) (t : TrunkId) : Station :=
  if outcome.isGood then { r with nextToggle := !r.nextToggle, currentTrunk := t } else r

/-- The health of an ONLINE or SUSPECT station after a POINT transfer (R86, R87, R88); other outcomes and other states
have no row in Table 4-3. -/
def Station.afterPoint (r : Station) (outcome : OutcomeCode) (suspectAfter absentAfter : Nat) : Station :=
  if !r.state.called then r
  else if outcome.isSuccess then { r with state := .online, failureRun := 0 }
  else if outcome.isStationFailure then r.failed suspectAfter absentAfter
  else if outcome.isResynchronising then { r with state := .confirming, failureRun := 0, confirmCount := 0 }
  else r

/-- The heard identity is the one expected; 0 expects any (R92). -/
def Station.identityMatches (r : Station) (heard : Word) : Bool := r.expectedIdentity = 0 || heard = r.expectedIdentity

/-- A GOOD probe whose identity matches (R92). -/
def Station.confirmed (r : Station) (heard : Word) (reportedToggle : Bool) (needed : Nat) : Station :=
  let count := r.confirmCount + 1
  if needed ≤ count then
    { r with
      heardIdentity := heard, mismatch := false, state := .online, confirmCount := 0, failureRun := 0
      nextToggle := reportedToggle }
  else { r with heardIdentity := heard, mismatch := false, state := .confirming, confirmCount := count }

/-- A GOOD probe whose identity does not match (R93). -/
def Station.mismatched (r : Station) (heard : Word) (interval : Nat) : Station :=
  { r with
    heardIdentity := heard, mismatch := true, confirmCount := 0, state := .absent
    probeCountdown := if r.state = .confirming then interval else r.probeCountdown }

/-- A PROBE that ends with a station-class failure (R94). -/
def Station.probeFailed (r : Station) : Station :=
  { r with
    confirmCount := 0, state := .absent
    probeCountdown := if r.state = .confirming then 0 else r.probeCountdown }

/-- A station-state event for a change made by a transfer's report: nothing is written where the state stays (R96). -/
def State.reportStation (s : State) (x : Transfer) (outcome : OutcomeCode) (old new : StationState) (cause : Nat) : State :=
  if old = new then s
  else s.report .stationState (some x.trunk) x.station outcome (x.point.setWidth 16) (stateChange old.code new.code cause)

/-- The report of a POINT transfer's end to the station table (R73, R85 to R88). -/
def State.pointHealth (s : State) (x : Transfer) (outcome : OutcomeCode) : State :=
  let r := s.station x.station
  let moved := (r.delivered outcome x.trunk).afterPoint outcome s.set.suspectAfter.toNat s.set.absentAfter.toNat
  (s.setStation x.station moved).reportStation x outcome r.state moved.state stationCauseOutcome

/-- The report of a PROBE transfer's end to the station table (R92 to R94): the IDENTITY MISMATCH event, if one is
written, stands before the STATION STATE event (R93, R98). -/
def State.probeHealth (s : State) (x : Transfer) (outcome : OutcomeCode) : State :=
  let r := s.station x.station
  if !(r.state = .absent || r.state = .confirming) then s
  else if outcome = .good then
    if r.identityMatches x.heardIdentity then
      let moved := r.confirmed x.heardIdentity x.reportedToggle s.set.confirmCount.toNat
      (s.setStation x.station moved).reportStation x outcome r.state moved.state stationCauseOutcome
    else
      let moved := r.mismatched x.heardIdentity s.set.probeInterval.toNat
      let stored := s.setStation x.station moved
      let told :=
        if r.mismatch then stored
        else stored.report .identityMismatch (some x.trunk) x.station outcome (x.point.setWidth 16) x.heardIdentity
      told.reportStation x outcome r.state moved.state stationCauseIdentity
  else if outcome.isStationFailure then
    let moved := r.probeFailed
    (s.setStation x.station moved).reportStation x outcome r.state moved.state stationCauseOutcome
  else s

/-- Step 3 of R71: a detached transfer, or a station that is OFF, changes nothing (R73, R84). -/
def State.stationReport (s : State) (x : Transfer) (outcome : OutcomeCode) : State :=
  if x.detached || (s.station x.station).state == .off then s
  else
    match x.kind with
    | .point => s.pointHealth x outcome
    | .probe => s.probeHealth x outcome
    | .broadcast | .sync => s

/-! ## Conditions (R64, R95) -/

/-- One STATION CONDITION event: the flag code, 1 for ATTENTION and 2 for FAULT, above the condition byte (Table
10-12). -/
def State.reportCondition (s : State) (x : Transfer) (outcome : OutcomeCode) (condition : BitVec 8) (flag : Nat) : State :=
  s.report .stationCondition (some x.trunk) x.station outcome (x.point.setWidth 16)
    (BitVec.ofNat 16 (flag * 256 + condition.toNat))

/-- The condition byte of an attributable answer: rising edges are reported, ATTENTION first, and the byte is stored
(R95). -/
def State.conditionReport (s : State) (x : Transfer) (outcome : OutcomeCode) (condition : BitVec 8) : State :=
  let r := s.station x.station
  if x.detached || r.state == .off then s
  else
    let attention :=
      if conditionAttention condition && !conditionAttention r.lastCondition then s.reportCondition x outcome condition 1 else s
    let both :=
      if conditionFault condition && !conditionFault r.lastCondition then attention.reportCondition x outcome condition 2
      else attention
    both.setStation x.station { r with lastCondition := condition }

/-! ## Countdowns -/

/-- The probe countdown at a round start (R91). -/
def Station.aged (r : Station) : Station :=
  if r.state = .absent then { r with probeCountdown := r.probeCountdown - 1 } else r

/-- The station table's round-start notice (R32, R91). -/
def State.ageStations (s : State) : State := { s with stations := s.stations.map Station.aged }

/-- A probe is issued: an ABSENT station's countdown becomes PROBE INTERVAL (R90). -/
def Station.probed (r : Station) (interval : Nat) : Station :=
  if r.state = .absent then { r with probeCountdown := interval } else r

end Sys2Proof.Machine
end

