-- ==== Sys2Proof/Machine/Points.lean ====
section
/-! DEFINITION. The point runtime table: reception start (R104), the end report
(R72, R103 to R109, R114) and the point commands (R110 to R113). -/

namespace Sys2Proof.Machine

/-! ## The entry -/

/-- The stable index flips and the update count moves with it (R101, R105, R112). -/
def PointEntry.flip (e : PointEntry) : PointEntry := { e with stable := !e.stable, updates := e.updates + 1 }

/-- A POINT UPDATE event after a flip, if NOTIFY asks for one (R109). -/
def State.reportUpdate (s : State) (notify : Bool) (trunk : Option TrunkId) (station : Nat) (outcome : OutcomeCode)
    (p : BitVec 8) : State :=
  if notify then s.report .pointUpdate trunk station outcome (p.setWidth 16) (s.point p).updates else s

/-- The reception start notice of a READ or EXCHANGE point (R104). -/
def State.receptionStart (s : State) (p : BitVec 8) : State := s.setPoint p { s.point p with pending := false }

/-- The entry at a transfer's end report: last outcome and IN FLIGHT always, the stamp and COMMITTED on a delivered
transfer (R72, R103, R107, R114). -/
def PointEntry.ended (e : PointEntry) (kind : TransferKind) (outcome : OutcomeCode) (sweep : Word) (round : Nat) : PointEntry :=
  let closed := { e with lastOutcome := outcome, inFlight := false }
  if (kind = .point && outcome.isGood) || (kind = .broadcast && outcome == .sent) then
    { closed with committed := false, stampSweep := sweep, stampRound := round }
  else closed

/-- Step 1 of R71: the report to the point runtime of a POINT or BROADCAST transfer (R72, R105 to R108). -/
def State.pointReport (s : State) (x : Transfer) (outcome : OutcomeCode) : State :=
  match x.kind, x.values with
  | .point, some r =>
    let ended := (s.point x.point).ended .point outcome s.eng.sweep s.eng.round
    if outcome.isGood && r.function.usesIn then
      if ended.hold then s.setPoint x.point { ended with pending := true }
      else (s.setPoint x.point ended.flip).reportUpdate r.notify (some x.trunk) r.station outcome x.point
    else s.setPoint x.point ended
  | .broadcast, some _ => s.setPoint x.point ((s.point x.point).ended .broadcast outcome s.eng.sweep s.eng.round)
  | _, _ => s

/-! ## The point commands -/

/-- A point command is taken: the number is checked against POINT COUNT and the record read begins (R110). -/
def State.pointCommand (s : State) (command : PointCommand) : State :=
  match byteOf s.cmd.args.arg0 with
  | none => s.complete .badOperand 1
  | some p =>
    if s.set.pointCount.toNat ≤ p.toNat then s.complete .badOperand 1
    else (s.holdCommand (.pointRead command p)).beginCommandRead

/-- The functions a point command accepts (Table 5-3). -/
def PointCommand.accepts (c : PointCommand) (f : PointFunction) : Bool :=
  match c with
  | .hold | .release => f.usesIn
  | .commit => f.usesOut

/-- POINT HOLD, accepted (R111). -/
def State.hold (s : State) (p : BitVec 8) : State :=
  (s.setPoint p { s.point p with hold := true }).complete .done (BitVec.ofNat 16 (flagBit (s.point p).stable))

/-- POINT RELEASE, accepted (R112); `station` and `notify` are the record's as read. -/
def State.release (s : State) (p : BitVec 8) (station : Nat) (notify : Bool) : State :=
  let e := s.point p
  if e.pending then
    ((s.setPoint p { e.flip with hold := false, pending := false }).reportUpdate notify none station .none p).complete
      .done 1
  else (s.setPoint p { e with hold := false }).complete .done 0

/-- POINT COMMIT, accepted (R113). -/
def State.commit (s : State) (p : BitVec 8) : State :=
  let e := s.point p
  if e.inFlight then s.complete .inFlight 0
  else (s.setPoint p { e with transmit := !e.transmit, committed := true }).complete .done
    (BitVec.ofNat 16 (flagBit (!e.transmit)))

/-- The record read of a point command has come to its end: the function is checked, then the command acts on the
entry as it now stands (R110). -/
def State.pointChecked (s : State) (command : PointCommand) (p : BitVec 8) : State :=
  let head := s.commandFinds (readPointHead p)
  let ended := s.endCommandRead
  match functionOf head.1 with
  | none => ended.complete .badOperand 2
  | some f =>
    if !command.accepts f then ended.complete .badOperand 2
    else
      match command with
      | .hold => ended.hold p
      | .release => ended.release p (pointStation head.1) (bitOf head.2 1)
      | .commit => ended.commit p

/-- The record read of a point command completes (R110). -/
def State.pointReadDone (s : State) (command : PointCommand) (p : BitVec 8) : State :=
  (s.commandReadsOn Config.readLimit).pointChecked command p

end Sys2Proof.Machine
end

