-- ==== Sys2Proof/Machine/Demands.lean ====
section
/-! DEFINITION. The demand queue: posting (R119, R120), order and service (R121 to R124), completion (R125), deadlines
(R126) and cancelling (R127). -/

namespace Sys2Proof.Machine

/-! ## Order and eligibility -/

/-- The place of a demand that joins: a HIGH one after the last HIGH demand, a NORMAL one at the tail (R121). -/
def joinDemand (d : Demand) (list : List Demand) : List Demand :=
  if d.high then list.takeWhile (·.high) ++ d :: list.dropWhile (·.high) else list ++ [d]

/-- A demand is eligible when its station is 63, ONLINE or SUSPECT (R122). -/
def State.eligible (s : State) (d : Demand) : Bool :=
  d.station = Config.broadcastStation || (s.station d.station).state.called

/-- WAITING and eligible. -/
def State.servable (s : State) (d : Demand) : Bool := !d.inFlight && s.eligible d

/-- The first demand of the list that passes the test becomes IN FLIGHT and keeps its place (R118, R123). -/
def takeFirst (test : Demand → Bool) (list : List Demand) : Option (Demand × List Demand) :=
  match list with
  | [] => none
  | d :: rest =>
    if test d then some (d, { d with inFlight := true } :: rest)
    else (takeFirst test rest).map (fun found => (found.1, d :: found.2))

/-- The IN FLIGHT demand returns to WAITING in its place, its deadline as it was (R124). -/
def State.returnDemand (s : State) : State :=
  { s with demands := s.demands.map (fun d => { d with inFlight := false }) }

/-- The IN FLIGHT demand leaves the list (R121, R125). -/
def State.dropInFlight (s : State) : State := { s with demands := s.demands.filter (fun d => !d.inFlight) }

/-! ## Reporting (R128) -/

/-- A DEMAND DONE event: attempts begun, or the check code, in bits 15–10 of the detail and the point below. -/
def State.reportDemand (s : State) (d : Demand) (trunk : Option TrunkId) (outcome : OutcomeCode) (high : Nat) : State :=
  s.report .demandDone trunk d.station outcome (d.tag.setWidth 16) (codeIndex high d.point.toNat)

/-- Step 4 of R71: the demand of a finished transfer leaves the list with the transfer's outcome (R125). -/
def State.demandReport (s : State) (x : Transfer) (outcome : OutcomeCode) : State :=
  match x.demandTag, s.demandInFlight with
  | some _, some d => s.dropInFlight.reportDemand d (some x.trunk) outcome x.attempts
  | _, _ => s

/-! ## Posting -/

/-- DEMAND POST is taken: the arguments and the point number are checked, and the record read begins (R119). -/
def State.demandPost (s : State) : State :=
  let a := s.cmd.args
  match byteOf a.arg0, byteOf a.arg2, byteOf a.arg3 with
  | some p, some deadline, some tag =>
    if 1 < a.arg1.toNat then s.complete .badOperand 0
    else if s.set.pointCount.toNat ≤ p.toNat then s.complete .badOperand (codeIndex 13 p.toNat)
    else (s.holdCommand (.postCheck p (a.arg1.toNat == 1) deadline.toNat tag)).beginCommandRead
  | _, _, _ => s.complete .badOperand 0

/-- Which of point and tag a new demand shares with the list: 1 point, 2 tag, 3 both, 0 none (Table 6-2). Both may be
shared with one demand or with two. -/
def duplicateCode (list : List Demand) (p tag : BitVec 8) : Nat :=
  flagBit (list.any (fun d => d.point == p)) + 2 * flagBit (list.any (fun d => d.tag == tag))

/-- The rest of a post, judged against the queue and the station table as they stand when the record check ends
(R120). -/
def State.judgePost (s : State) (p : BitVec 8) (high : Bool) (deadline : Nat) (tag : BitVec 8) (station : Nat) : State :=
  if station ≠ Config.broadcastStation ∧ (s.station station).state = .off then s.complete .refusedState 0
  else if Config.queuePlaces ≤ s.demands.length then s.complete .queueFull (BitVec.ofNat 16 Config.queuePlaces)
  else if duplicateCode s.demands p tag ≠ 0 then s.complete .duplicate (BitVec.ofNat 16 (duplicateCode s.demands p tag))
  else
    let joined := joinDemand { point := p, station, high, deadline, tag, inFlight := false } s.demands
    ({ s with demands := joined }).complete .done (BitVec.ofNat 16 joined.length)

/-- The record check of a post has come to its end (R119, R120). -/
def State.postChecked (s : State) (p : BitVec 8) (high : Bool) (deadline : Nat) (tag : BitVec 8) : State :=
  match s.commandFinds (checkRecord p) with
  | .error code => s.endCommandRead.complete .badOperand (codeIndex code p.toNat)
  | .ok r => s.endCommandRead.judgePost p high deadline tag r.station

/-- The record check of a post ends (R119, R120). -/
def State.postCheckDone (s : State) (p : BitVec 8) (high : Bool) (deadline : Nat) (tag : BitVec 8) : State :=
  (s.commandReadsOn Config.readLimit).postChecked p high deadline tag

/-! ## Deadlines (R126) -/

/-- A WAITING demand whose deadline runs out at this round start. -/
def Demand.expires (d : Demand) : Bool := !d.inFlight && d.deadline == 1

/-- A demand one round older. -/
def Demand.aged (d : Demand) : Demand := if d.inFlight then d else { d with deadline := d.deadline - 1 }

/-- DEMAND DONE with outcome EXPIRED for each of the demands, in order. -/
def State.reportExpired (s : State) (expired : List Demand) : State :=
  match expired with
  | [] => s
  | d :: rest => State.reportExpired (s.reportDemand d none .expired 0) rest

/-- The demand queue's round-start notice (R32, R126). -/
def State.ageDemands (s : State) : State :=
  ({ s with demands := (s.demands.filter (fun d : Demand => !d.expires)).map Demand.aged }).reportExpired
    (s.demands.filter Demand.expires)

/-! ## Cancelling (R127) -/

/-- DEMAND CANCEL, taken. -/
def State.demandCancel (s : State) : State :=
  match byteOf s.cmd.args.arg0 with
  | none => s.complete .badOperand 0
  | some tag =>
    match s.demands.find? (fun d => d.tag == tag) with
    | none => s.complete .notFound 0
    | some d =>
      if d.inFlight then s.complete .late 0
      else
        (({ s with demands := s.demands.eraseP (fun e => e.tag == tag) }).reportDemand d none .cancelled 0).complete
          .done 0

end Sys2Proof.Machine
end

