-- ==== Sys2Proof/Machine/Plan.lean ====
section
/-! DEFINITION. The cycle plan: the end of a validation (R9, R13), activation (R18), the pending switch (R19) and the
plan commands (R14 to R17). -/

namespace Sys2Proof.Machine

/-! ## Activation and the pending switch -/

/-- A bank is made active with its captured geometry, and PLAN SWITCHED is written (R18). The trunk and
station fields of the record, which no rule names, are none and 0 (assumption 33, DESIGN CHOICE). -/
def State.activate (s : State) (g : Geometry) : State :=
  let replaced := s.eng.active.map (·.bank)
  ({ s with eng := { s.eng with active := some g } }).report .planSwitched none 0 .none 0
    (BitVec.ofNat 16 (bankField replaced * 16 + bankField (some g.bank)))

/-- A pending switch is applied, and cleared (R19). -/
def State.applyPending (s : State) : State :=
  match s.eng.pending with
  | none => s
  | some g => ({ s with eng := { s.eng with pending := none } }).activate g

/-! ## The plan commands -/

/-- A validation begins: the base is captured (R9). -/
def State.beginValidation (s : State) (forSwitch : Bool) (bank : Bank) : State :=
  (s.holdCommand (.validation forSwitch bank (s.set.planBase bank).toNat)).beginCommandRead

/-- SWITCH PLAN with operand CANCEL (R17). -/
def State.cancelSwitch (s : State) : State :=
  match s.eng.pending with
  | none => s.complete .notFound 0
  | some _ => ({ s with eng := { s.eng with pending := none } }).complete .done 0

/-- SWITCH PLAN, taken, with the operand of CMD ARG 0 (R15, R17). -/
def State.switchPlan (s : State) : State :=
  if s.cmd.args.arg0 = cancelOperand then s.cancelSwitch
  else
    match bankOfOperand s.cmd.args.arg0 with
    | none => s.complete .badOperand 0
    | some bank => if s.eng.pending.isSome then s.complete .pending 0 else s.beginValidation true bank

/-- VALIDATE PLAN, taken (R14). -/
def State.validatePlan (s : State) : State :=
  match bankOfOperand s.cmd.args.arg0 with
  | none => s.complete .badOperand 0
  | some bank => s.beginValidation false bank

/-- A SWITCH PLAN whose validation passed, by the engine state at that moment (Table 1-10). -/
def State.switchTo (s : State) (g : Geometry) : State :=
  match s.eng.state with
  | .idle | .halted => (s.activate g).complete .done 0
  | .running | .draining => ({ s with eng := { s.eng with pending := some g } }).complete .done 1

/-- The end of a validation whose words have been read (R13, R14, R15, R16). -/
def State.validated (s : State) (forSwitch : Bool) (bank : Bank) (base : Nat) : State :=
  match s.commandFinds (validateBank bank base) with
  | .error e => s.endCommandRead.complete .planInvalid e.detail
  | .ok g => if forSwitch then s.endCommandRead.switchTo g else s.endCommandRead.complete .done 0

/-- The end of a validation (R9, R16). -/
def State.validationDone (s : State) (forSwitch : Bool) (bank : Bank) (base : Nat) : State :=
  (s.commandReadsOn Config.readLimit).validated forSwitch bank base

end Sys2Proof.Machine
end

