-- ==== Sys2Proof/Machine/Rounds.lean ====
section
/-! DEFINITION. Rounds and sweeps: entering IDLE or HALTED (R28, R31), round start (R32), slot start and slot end (R40),
overruns (R34 to R36), the sweep boundary (R38), the trunk need (R44, R45). -/

namespace Sys2Proof.Machine

/-- ENGINE STATE causes (Table 2-2). -/
def engineCauseStart : Nat := 1
/-- STEP. -/
def engineCauseStep : Nat := 2
/-- STOP ROUND. -/
def engineCauseStopRound : Nat := 3
/-- STOP SWEEP. -/
def engineCauseStopSweep : Nat := 4
/-- STOP REACHED. -/
def engineCauseStopReached : Nat := 5
/-- ABORT. -/
def engineCauseAbort : Nat := 6
/-- OVERRUN. -/
def engineCauseOverrun : Nat := 7
/-- NO TRUNKS. -/
def engineCauseNoTrunks : Nat := 8
/-- CLEAR HALT. -/
def engineCauseClearHalt : Nat := 9

/-- The slot index as the point, slot or tag field of an event. -/
def State.slotItem (s : State) : Word := BitVec.ofNat 16 s.eng.slot

/-- The engine changes state and writes ENGINE STATE (R31). -/
def State.changeEngine (s : State) (new : EngineState) (stop : StopPoint) (cause : Nat) : State :=
  ({ s with eng := { s.eng with state := new, stop } }).report .engineState none 0 .none s.slotItem
    (stateChange s.eng.state.code new.code cause)

/-- The engine leaves RUNNING or DRAINING for IDLE or HALTED: the slot has ended, the timer stops, a pending switch is
applied before the ENGINE STATE event, and the ENGINE cause is set (R19, R23, R28, R31). -/
def State.stopEngine (s : State) (new : EngineState) (halt : HaltCause) (cause : Nat) : State :=
  let applied := s.applyPending
  let stopped :=
    { applied with
      eng := { applied.eng with phase := .none, timer := .stopped, halt }, traffic := { applied.traffic with engine := none } }
  (stopped.changeEngine new .none cause).raise causeEngine

/-! ## Slots of a round -/

/-- The directory entry of the round in progress in the kept geometry (R18). -/
def State.roundEntry (s : State) : DirectoryEntry :=
  match s.eng.active with
  | some g => g.directory.getD s.eng.round { first := 0, count := 0 }
  | none => { first := 0, count := 0 }

/-- The slots of the round that have not begun: one slot has begun as soon as the round has any (R32, R40). -/
def State.slotsLeft (s : State) : Nat :=
  if s.roundEntry.count = 0 then 0 else s.roundEntry.first + s.roundEntry.count - (s.eng.slot + 1)

/-- A slot begins: its index is set, it is in progress, and the reads of its records begin (R21, R40). -/
def State.beginSlot (s : State) (i : Nat) : State :=
  ({ s with eng := { s.eng with slot := i, phase := .reading 0 } }).beginEngineRead

/-- A round begins (R32): index, timer, the notices to the station table and the demand queue, the first slot. -/
def State.beginRound (s : State) (r : Nat) : State :=
  let period := (s.eng.active.map (·.roundPeriod)).getD 0
  let loaded := { s with eng := { s.eng with round := r, timer := .running (period * 10) } }
  let aged := loaded.ageStations.ageDemands
  if aged.roundEntry.count = 0 then aged else aged.beginSlot aged.roundEntry.first

/-- A sweep begins: the sweep counter advances, NO TRUNK may be reported again, and round 0 begins (R25, R37, R38). -/
def State.beginSweep (s : State) : State :=
  ({ s with eng := { s.eng with sweep := s.eng.sweep + 1, noTrunkReported := false } }).beginRound 0

/-- The rounds of the active bank. -/
def State.roundCount (s : State) : Nat := (s.eng.active.map (·.roundCount)).getD 0

/-- The boundary work at the end of a sweep's last round (R38). The trunk and station fields of SWEEP END, which no
rule names, are none and 0 (assumption 33, DESIGN CHOICE). -/
def State.sweepBoundary (s : State) : State :=
  let told :=
    s.applyPending.report .sweepEnd none 0 .none 0 (BitVec.ofNat 16 s.roundCount)
  if s.eng.state = .draining then told.stopEngine .idle .none engineCauseStopReached else told.beginSweep

/-- The end of a round: the sweep boundary, a stop point, or the next round (R28). -/
def State.endRound (s : State) : State :=
  if s.roundCount ≤ s.eng.round + 1 then s.sweepBoundary
  else if s.eng.state = .draining ∧ s.eng.stop = .roundEnd then s.stopEngine .idle .none engineCauseStopReached
  else s.beginRound (s.eng.round + 1)

/-- The overrun policy of the active bank. -/
def State.policy (s : State) : OverrunPolicy := (s.eng.active.map (·.policy)).getD .late

/-- The round timer has expired under TRUNCATE or HALT: no further slot or attempt of the round begins (R35, R36,
R66). -/
def State.cutShort (s : State) : Bool := s.eng.timer == .expired && s.policy != .late

/-- What follows the end of a slot (R33 to R36, R40): the halt, the end of the round, the next slot, or the wait for the
timer. -/
def State.afterSlot (s : State) : State :=
  if s.cutShort && s.policy == .halt then s.stopEngine .halted .overrun engineCauseOverrun
  else if s.cutShort then s.endRound
  else if 0 < s.slotsLeft then s.beginSlot (s.eng.slot + 1)
  else if s.eng.timer = .expired then s.endRound
  else s

/-- A slot ends (R40). -/
def State.endSlot (s : State) : State :=
  ({ s with eng := { s.eng with phase := .none }, traffic := { s.traffic with engine := none } }).afterSlot

/-! ## The trunk need (R44, R45) -/

/-- A NO TRUNK event, at most once in a sweep (R44). -/
def State.reportNoTrunk (s : State) : State :=
  if s.eng.noTrunkReported then s
  else
    ({ s with eng := { s.eng with noTrunkReported := true } }).report .noTrunk none 0 .noTrunk s.slotItem 0

/-- At least one trunk is READY. -/
def State.anyReady (s : State) : Bool := s.ready .a || s.ready .b

/-- At least one trunk is TRAINING. -/
def State.anyTraining (s : State) : Bool := s.trunkA.state == .training || s.trunkB.state == .training

/-- A slot that needs a trunk goes on with `work`, or ends NO TRUNK, or halts the engine (R44, R45). -/
def State.needTrunk (s : State) (work : State → State) : State :=
  if s.anyReady then work s
  else if s.anyTraining then s.reportNoTrunk.endSlot
  else s.stopEngine .halted .noTrunks engineCauseNoTrunks

/-! ## Expiry of the round timer (R33 to R36) -/

/-- An overrun: ROUND OVERRUN at the moment of expiry, then the policy (R34, R35, R36). A slot in its start decisions or
in a pause ends at once under TRUNCATE and HALT; a demand being read returns to WAITING (R124). -/
def State.overrun (s : State) : State :=
  let item := if s.eng.phase = .none then s.slotItem + 1 else s.slotItem
  let told :=
    ({ s with eng := { s.eng with timer := .expired } }).report .roundOverrun none 0 .none item
      (BitVec.ofNat 16 s.slotsLeft)
  if s.policy = .late then told
  else
    match s.eng.phase with
    | .transferring => told
    | .demandReading _ => told.returnDemand.endSlot
    | .none | .reading _ | .pausing _ => told.endSlot

/-- The round timer, RUNNING, reaches its end: the round ends if its slots have, else it has overrun (R33). -/
def State.timerExpired (s : State) : State :=
  if s.eng.phase = .none ∧ s.slotsLeft = 0 then s.endRound else s.overrun

end Sys2Proof.Machine
end

