-- ==== Sys2Proof/Machine/Transfers.lean ====
section
/-! DEFINITION. Transfers: hand-over (R50), attempts and the choice of trunk (R51 to R54), the call on the line (R56 to
R58), the answer (R59 to R63), the end of an attempt (R64 to R66) and of a transfer (R71 to R75). -/

namespace Sys2Proof.Machine

/-! ## The choice of trunk -/

/-- The trunk of a first attempt: the preferred one if READY, else the other (R52). -/
def State.firstTrunk (s : State) (preferred : TrunkId) : TrunkId :=
  if s.ready preferred then preferred else otherTrunk preferred

/-- The trunk of a later attempt, none where neither is READY (Table 3-2). -/
def State.nextTrunk (s : State) (policy : RetryPolicy) (previous : TrunkId) : Option TrunkId :=
  let other := otherTrunk previous
  match policy with
  | .same => if s.ready previous then some previous else if s.ready other then some other else none
  | .alternate => if s.ready other then some other else if s.ready previous then some previous else none

/-! ## Attempts -/

/-- The occupancy guard in microseconds (R55). -/
def State.guardTime (s : State) : Nat := s.set.occupancyGuard.toNat

/-- An attempt begins on a trunk (R51, R56): it waits for the gap, or, where that has passed, makes its occupancy check
and samples the guard. -/
def State.beginAttempt (s : State) (x : Transfer) (t : TrunkId) : State :=
  { s with
    xfer := some
      { x with
        attempts := x.attempts + 1, trunk := t, outcome := .none
        phase := if s.gapLeft t = 0 then waitForQuiet s.guardTime false (s.quietLeft t) 0 else .gap } }

/-! ## Hand-over (R50) -/

/-- A transfer record as it is set up, before its first attempt. -/
def newTransfer (kind : TransferKind) (demandTag : Option (BitVec 8)) (p : BitVec 8) (values : Option PointRecord)
    (station allowed : Nat) (policy : RetryPolicy) (toggle : Bool) : Transfer :=
  { kind, demandTag, point := p, values, station, allowed, policy, toggle, attempts := 0, trunk := .a, outcome := .none
    broadcastSent := false, heardIdentity := 0, reportedToggle := false, detached := false, phase := .gap }

/-- The slot goes over to its transfer. -/
def State.enterTransfer (s : State) : State := { s with eng := { s.eng with phase := .transferring } }

/-- The point's runtime entry is marked IN FLIGHT (R103). -/
def State.markInFlight (s : State) (p : BitVec 8) : State := s.setPoint p { s.point p with inFlight := true }

/-- Hand-over of a POINT transfer, with the station's next toggle and current trunk (R50, R52, R68). -/
def State.handOverPoint (s : State) (demandTag : Option (BitVec 8)) (p : BitVec 8) (r : PointRecord) (allowed : Nat)
    (policy : RetryPolicy) : State :=
  let station := s.station r.station
  (s.enterTransfer.markInFlight p).beginAttempt
    (newTransfer .point demandTag p (some r) r.station allowed policy station.nextToggle) (s.firstTrunk station.currentTrunk)

/-- Hand-over of a PROBE transfer: the probe is issued (R50, R90). -/
def State.handOverProbe (s : State) (p : BitVec 8) (r : PointRecord) (allowed : Nat) (policy : RetryPolicy) : State :=
  let station := s.station r.station
  (s.enterTransfer.setStation r.station (station.probed s.set.probeInterval.toNat)).beginAttempt
    (newTransfer .probe none p (some r) r.station allowed policy false) (s.firstTrunk station.currentTrunk)

/-- Hand-over of a BROADCAST transfer: trunk A if READY, else B; no attempt is retried (R50, R52, R69). -/
def State.handOverBroadcast (s : State) (demandTag : Option (BitVec 8)) (p : BitVec 8) (r : PointRecord) : State :=
  (s.enterTransfer.markInFlight p).beginAttempt
    (newTransfer .broadcast demandTag p (some r) Config.broadcastStation 1 .same false) (s.firstTrunk .a)

/-- Hand-over of a SYNC transfer (R50, R70). -/
def State.handOverSync (s : State) : State :=
  s.enterTransfer.beginAttempt (newTransfer .sync none 0 none Config.broadcastStation 1 .same false) (s.firstTrunk .a)

/-! ## The end of a transfer (R71) -/

/-- The detail of a TRANSFER FAULT event: attempts begun, and 100h for a demand (R74). -/
def Transfer.faultDetail (x : Transfer) : Word :=
  BitVec.ofNat 16 (x.attempts + if x.demandTag.isSome then 0x100 else 0)

/-- Step 2 of R71: TRANSFER FAULT for a failed transfer of a point with REPORT set (R74). -/
def State.faultReport (s : State) (x : Transfer) (outcome : OutcomeCode) : State :=
  match x.kind, x.values with
  | .point, some r | .broadcast, some r =>
    if r.report && outcome.isReported then
      s.report .transferFault (some x.trunk) x.station outcome (x.point.setWidth 16) x.faultDetail
    else s
  | _, _ => s

/-- The four reports in their order, after which the record returns to kind NONE (R71). -/
def State.transferReports (s : State) (x : Transfer) (outcome : OutcomeCode) : State :=
  { (((s.pointReport x outcome).faultReport x outcome).stationReport x outcome).demandReport x outcome with xfer := none }

/-- A transfer ends with its final outcome, and the slot ends TRANSFERRED, or NO TRUNK (R44, R71). -/
def State.endTransfer (s : State) (x : Transfer) (outcome : OutcomeCode) : State :=
  let reported := s.transferReports x outcome
  (if outcome = .noTrunk then reported.reportNoTrunk else reported).endSlot

/-! ## The end of an attempt (R64 to R66, R135) -/

/-- What follows an attempt of a POINT or PROBE transfer: a further attempt, or the end (R53, R54, R66). The further
attempt begins in the step that ends the one before (section 3.2), so an ABORT taken next cuts the further attempt;
R29 and R75 also speak of an ABORT that comes between the two (assumption 36, DESIGN CHOICE). -/
def State.retryOrEnd (s : State) (x : Transfer) (outcome : OutcomeCode) : State :=
  if outcome.retried && decide (x.attempts < x.allowed) && !s.cutShort && !x.detached then
    match s.nextTrunk x.policy x.trunk with
    | some t => s.beginAttempt x t
    | none => s.endTransfer x .noTrunk
  else s.endTransfer x outcome

/-- What follows an attempt of a BROADCAST or SYNC transfer: trunk B's turn after A's, or the end with SENT if any
attempt was sent (R69, R70). Trunk B's turn begins as a further attempt does (assumption 36, DESIGN CHOICE). -/
def State.turnOrEnd (s : State) (x : Transfer) (outcome : OutcomeCode) : State :=
  if x.trunk = .a ∧ s.ready .b ∧ s.cutShort = false then s.beginAttempt x .b
  else s.endTransfer x (if x.broadcastSent then .sent else outcome)

/-- The decision after an attempt's reports (R66, R69, R70). -/
def State.afterAttempt (s : State) (x : Transfer) (outcome : OutcomeCode) : State :=
  match x.kind with
  | .point | .probe => s.retryOrEnd x outcome
  | .broadcast | .sync => s.turnOrEnd x outcome

/-- The transfer record with the outcome of the attempt that ends; a broadcast remembers that one was sent (R69, R70). -/
def Transfer.withOutcome (x : Transfer) (outcome : OutcomeCode) : Transfer :=
  { x with outcome, broadcastSent := x.broadcastSent || outcome == .sent }

/-- The two reports of an attempt: its line result, then its condition byte if an answer passed steps 1 to 3 (R64,
R65). -/
def State.attemptReports (s : State) (x : Transfer) (outcome : OutcomeCode) (condition : Option (BitVec 8)) : State :=
  match condition with
  | some c => (s.lineReport x outcome).conditionReport x outcome c
  | none => s.lineReport x outcome

/-- An attempt ends: its reports, a held trunk command, then the decision (R64, R65, R66, R135; assumption 15). -/
def State.endAttempt (s : State) (x : Transfer) (outcome : OutcomeCode) (condition : Option (BitVec 8)) : State :=
  ((s.attemptReports (x.withOutcome outcome) outcome condition).releaseHeldTrunk x.trunk).afterAttempt
    (x.withOutcome outcome) outcome

/-! ## The call on the line -/

/-- The number of payload words of a call (R57). -/
def Transfer.callLength (x : Transfer) : Nat :=
  match x.kind, x.values with
  | .point, some r | .broadcast, some r => if r.function.usesOut then r.outLength else 0
  | .sync, _ => 4
  | _, _ => 0

/-- Word 0 of the call's header (R57, R180). -/
def Transfer.header0 (x : Transfer) : Word :=
  let function := match x.values with
    | some r => r.function
    | none => .read
  callHeader0 x.station (callFunctionCode x.kind function) x.toggle

/-- Word 1 of the call's header: the object index is 0 for PROBE and SYNC (R57). -/
def Transfer.header1 (x : Transfer) : Word :=
  match x.kind, x.values with
  | .point, some r | .broadcast, some r => callHeader1 r.objectIndex x.callLength
  | _, _ => callHeader1 0 x.callLength

/-- The payload of a SYNC call, taken when its transmission begins: sweep counter, round index, time tag (R70, R180). -/
def State.syncPayload (s : State) : List Word :=
  [s.eng.sweep, BitVec.ofNat 16 s.eng.round, s.time.extractLsb' 0 16, s.time.extractLsb' 16 16]

/-- The time until transmission can begin, if the line falls quiet within the guard as far as is known (R56). -/
def State.transmitDelay (s : State) (x : Transfer) : Option Nat :=
  let gap := s.gapLeft x.trunk
  let quiet := s.quietLeft x.trunk
  match x.phase with
  | .gap => if quiet ≤ gap + s.guardTime then some (max gap quiet) else none
  | .occupancy left lapsed => if lapsed = false ∧ quiet ≤ left then some quiet else none
  | .sending _ _ _ _ _ => none
  | .window _ => none
  | .receiving _ _ _ _ => none

/-- The time until the guard runs out, if the line does not fall quiet before it as far as is known (R56). -/
def State.guardDelay (s : State) (x : Transfer) : Option Nat :=
  let gap := s.gapLeft x.trunk
  let quiet := s.quietLeft x.trunk
  match x.phase with
  | .gap => if gap < quiet ∧ gap + s.guardTime ≤ quiet then some (gap + s.guardTime) else none
  | .occupancy left lapsed => if lapsed = true ∨ (0 < quiet ∧ left ≤ quiet) then some left else none
  | .sending _ _ _ _ _ => none
  | .window _ => none
  | .receiving _ _ _ _ => none

/-- Transmission of the call begins (R57): the header goes out as the transfer stands, the line is occupied for the
frame's length, and no payload word of a point has been read. -/
def State.sendCall (s : State) (x : Transfer) : State :=
  let length := x.callLength
  let payload := if x.kind = .sync then s.syncPayload else []
  let t := s.trunk x.trunk
  { s.setTrunk x.trunk (t.transmit (s.bitTimes (frameBits length))) with
    xfer := some { x with phase := .sending 0 x.header0 x.header1 length payload } }

/-- The answer window of the active bank's kept geometry (R59). -/
def State.answerWindow (s : State) : Nat := (s.eng.active.map (·.answerWindow)).getD 0

/-- The end of a call's echo (R58): the frame has gone out whole; a mismatch ends the attempt ECHO FAULT, a clean
broadcast or SYNC ends SENT, any other call opens its answer window. -/
def State.echoEnd (s : State) (x : Transfer) (header0 header1 : Word) (payload : List Word) (echo : Echo) : State :=
  let sent := s.setTrunk x.trunk { s.trunk x.trunk with lastFrame := frameOnLine (frameWords header0 header1 payload) }
  match echo with
  | .mismatch => sent.endAttempt x .echoFault none
  | .clean =>
    match x.kind with
    | .broadcast | .sync => sent.endAttempt x .sent none
    | .point | .probe => { sent with xfer := some { x with phase := .window sent.answerWindow } }

/-! ## The answer -/

/-- A fault of R60 in a received answer. -/
def answerGarbled (f : AnswerFrame) : Bool :=
  f.violation || f.tailBits != 0 || decide (answerBits f < 48) || decide (Config.receptionLimit < answerBits f)
    || match f.words with
      | w0 :: w1 :: _ =>
        (parseAnswerHeader w0 w1).length != (answerPayload f).length
          || some (crc16 (f.words.dropLast)) != f.words.getLast?
      | _ => true

/-- What the classification of a received answer gives: the outcome, the condition byte if the answer can be attributed
to the called station, and the header (R62 to R64). -/
structure Classified where
  outcome : OutcomeCode
  condition : Option (BitVec 8)
deriving DecidableEq, Repr

/-- Steps 4 to 10 of Table 3-3, for an answer to a point call. -/
def classifyPoint (h : AnswerHeader) (toggle : Bool) (expected attempt : Nat) : OutcomeCode :=
  if conditionRestarted h.condition then .restarted
  else if h.toggleEcho != toggle then .wrongToggle
  else if conditionBusy h.condition then .busy
  else if h.length ≠ expected then .wrongLength
  else if conditionRepeat h.condition then (if attempt = 1 then .outOfStep else .goodRepeat)
  else .good

/-- Step 7 for an answer to a probe, which is GOOD otherwise (R63). -/
def classifyProbe (h : AnswerHeader) : OutcomeCode := if h.length ≠ 2 then .wrongLength else .good

/-- The classification of a received answer (R62, R63): GARBLED, WRONG STATION, then the steps of its kind. -/
def classify (x : Transfer) (f : AnswerFrame) : Classified :=
  if answerGarbled f then { outcome := .garbled, condition := none }
  else
    let h := parseAnswerHeader (f.words.getD 0 0) (f.words.getD 1 0)
    if h.station ≠ x.station then { outcome := .wrongStation, condition := none }
    else
      { outcome := if x.kind = .probe then classifyProbe h else classifyPoint h x.toggle x.inLength x.attempts
        condition := some h.condition }

/-- What a probe answer that passes steps 1 to 3 leaves in the record; a missing word leaves the earlier value (R63). -/
def Transfer.keepProbe (x : Transfer) (payload : List Word) : Transfer :=
  { x with
    heardIdentity := payload.getD 0 x.heardIdentity
    reportedToggle :=
      match payload[1]? with
      | some w => bitOf w 0
      | none => x.reportedToggle }

/-- The record after an answer: a probe keeps what an attributable answer carried (R63). -/
def Transfer.afterAnswer (x : Transfer) (f : AnswerFrame) : Transfer :=
  if x.kind = .probe ∧ (classify x f).condition.isSome then x.keepProbe (answerPayload f) else x

/-- The microseconds that an answer occupies its line from the first bit time of its sync marker. -/
def State.answerTime (s : State) (f : AnswerFrame) : Nat := s.bitTimes (Config.syncBits + answerBits f)

/-- The microseconds from the first bit time of an answer's sync marker to the end of its reception: the frame's end, or
the limit of 560 bit times after the marker (R60; assumption 18). -/
def State.receptionTime (s : State) (f : AnswerFrame) : Nat :=
  s.bitTimes (Config.syncBits + min (answerBits f) Config.receptionLimit)

/-- An answer's sync marker begins in its window and is detected (R59, R61; assumption 18): the reception start notice
for a READ or EXCHANGE point, whose page 1 − S takes the words. The frame ends for the line with its reception; what
goes on past the limit of R60 is activity (assumption 23). -/
def State.answerSync (s : State) (x : Transfer) (f : AnswerFrame) : State :=
  let t := s.trunk x.trunk
  let started := s.setTrunk x.trunk (t.hearFrame (s.receptionTime f) (s.answerTime f))
  match x.kind, x.values with
  | .point, some r =>
    if r.function.usesIn then
      { started.receptionStart x.point with
        xfer := some { x with phase := .receiving 0 f (some (r.inPage (!(s.point x.point).stable))) 0 } }
    else { started with xfer := some { x with phase := .receiving 0 f none 0 } }
  | _, _ => { started with xfer := some { x with phase := .receiving 0 f none 0 } }

/-- An answer whose sync marker begins after its window has run out: its line is occupied for its length (R59). -/
def State.hearLateAnswer (s : State) (x : Transfer) (f : AnswerFrame) : State :=
  s.setTrunk x.trunk ((s.trunk x.trunk).hearFrame (s.answerTime f) (s.answerTime f))

/-- Reception ends and the answer is classified (R60 to R64). -/
def State.answerEnd (s : State) (x : Transfer) (f : AnswerFrame) : State :=
  let c := classify x f
  s.endAttempt (x.afterAnswer f) c.outcome c.condition

/-! ## Cutting an attempt (R29, R46, R140) -/

/-- The transmission of a cut attempt stops where it stands; a reception's rest goes on as activity. No report is made
to the trunk (R140). -/
def State.cutAttempt (s : State) (x : Transfer) : State :=
  match x.phase with
  | .sending _ _ _ _ _ => s.setTrunk x.trunk (s.trunk x.trunk).cutLine
  | _ => s

/-- The longest that ABORT and ENGINE RESET wait for quiet (R29). -/
def State.cutBound (s : State) : Nat := s.answerWindow + s.bitTimes Config.cutBoundBits

end Sys2Proof.Machine
end

