-- ==== Sys2Proof/Machine/AttemptEvents.lean ====
section
/-! DEFINITION. The events of an attempt (R56 to R63). An event that the state cannot give rise to changes nothing
(assumption 4). -/

namespace Sys2Proof.Machine

/-- The transfer in progress goes on with `work`; without one nothing happens. -/
def State.onTransfer (s : State) (work : State → Transfer → State) : State :=
  match s.xfer with
  | some x => work s x
  | none => s

/-- The line is quiet in time and the call goes out (R56, R57). -/
def State.startCall (s : State) (x : Transfer) : State :=
  match s.transmitDelay x with
  | some delay => (s.elapse delay).onTransfer State.sendCall
  | none => s

/-- CALL_TRANSMIT_START (R57). -/
def execCallTransmitStart (s : State) : Host.Outcome State Fault Refusal := .next (s.served.onTransfer State.startCall)

/-- The guard has run out on a line that is not quiet (R56). -/
def State.guardRunsOut (s : State) (x : Transfer) : State := s.endAttempt x .occupied none

/-- The wait for quiet ends with the guard (R56). -/
def State.endGuard (s : State) (x : Transfer) : State :=
  match s.guardDelay x with
  | some delay => (s.elapse delay).onTransfer State.guardRunsOut
  | none => s

/-- OCCUPANCY_GUARD_EXPIRY (R56). -/
def execOccupancyGuardExpiry (s : State) : Host.Outcome State Fault Refusal := .next (s.served.onTransfer State.endGuard)

/-- The echo of the call on the line is judged now, against the frame that has gone out (R58). -/
def State.judgeEcho (s : State) (heard : List BitTime) (x : Transfer) : State :=
  match x.phase with
  | .sending _ header0 header1 _ payload =>
    s.echoEnd x header0 header1 payload
      ((s.trunk x.trunk).judge (frameOnLine (frameWords header0 header1 payload)) heard)
  | .gap => s
  | .occupancy _ _ => s
  | .window _ => s
  | .receiving _ _ _ _ => s

/-- The echo of the call ends (R58). -/
def State.endCall (s : State) (heard : List BitTime) (x : Transfer) : State :=
  match x.phase with
  | .sending elapsed _ _ length _ =>
    (s.elapse (s.bitTimes (frameBits length) - elapsed)).onTransfer (fun s => s.judgeEcho heard)
  | .gap => s
  | .occupancy _ _ => s
  | .window _ => s
  | .receiving _ _ _ _ => s

/-- CALL_ECHO_END (R58). -/
def execCallEchoEnd (heard : List BitTime) (s : State) : Host.Outcome State Fault Refusal :=
  .next (s.served.onTransfer (fun s => s.endCall heard))

/-- The window has closed without a sync marker (R59). -/
def State.windowCloses (s : State) (x : Transfer) : State := s.endAttempt x .noAnswer none

/-- The answer window closes (R59). -/
def State.endWindow (s : State) (x : Transfer) : State :=
  match x.phase with
  | .window left => (s.elapse left).onTransfer State.windowCloses
  | .gap => s
  | .occupancy _ _ => s
  | .sending _ _ _ _ _ => s
  | .receiving _ _ _ _ => s

/-- ANSWER_WINDOW_CLOSE (R59). -/
def execAnswerWindowClose (s : State) : Host.Outcome State Fault Refusal := .next (s.served.onTransfer State.endWindow)

/-- A sync marker begins: before the window closes it begins an answer; once the window has run out it is activity on
the line, and its words are written nowhere (R59, R61). -/
def State.detectSync (s : State) (frame : AnswerFrame) (x : Transfer) : State :=
  match x.phase with
  | .window left => if left = 0 then s.hearLateAnswer x frame else s.answerSync x frame
  | .gap => s
  | .occupancy _ _ => s
  | .sending _ _ _ _ _ => s
  | .receiving _ _ _ _ => s

/-- ANSWER_SYNC_DETECTED (R59, R61, R104). -/
def execAnswerSyncDetected (line : List BitTime) (s : State) : Host.Outcome State Fault Refusal :=
  .next (s.served.onTransfer (fun s => s.detectSync (receiveFrame line)))

/-- The answer being received is checked and classified now (R60, R62). -/
def State.judgeAnswer (s : State) (x : Transfer) : State :=
  match x.phase with
  | .receiving _ frame _ _ => s.answerEnd x frame
  | .gap => s
  | .occupancy _ _ => s
  | .sending _ _ _ _ _ => s
  | .window _ => s

/-- Reception ends (R60). -/
def State.endReception (s : State) (x : Transfer) : State :=
  match x.phase with
  | .receiving elapsed frame _ _ => (s.elapse (s.receptionTime frame - elapsed)).onTransfer State.judgeAnswer
  | .gap => s
  | .occupancy _ _ => s
  | .sending _ _ _ _ _ => s
  | .window _ => s

/-- ANSWER_RECEIVED (R60). -/
def execAnswerReceived (s : State) : Host.Outcome State Fault Refusal := .next (s.served.onTransfer State.endReception)

end Sys2Proof.Machine
end

