-- ==== Sys2Proof/Machine/DemandCommands.lean ====
section
/-! DEFINITION. The demand commands and the end of a post's record check (R119, R120, R127). -/

namespace Sys2Proof.Machine

/-- DEMAND_POST (R119). -/
def execDemandPost (s : State) : Host.Outcome State Fault Refusal := .next (s.served.takeCommand 0x0040 State.demandPost)

/-- The record check of a post ends; without one nothing happens (R120; assumption 4). -/
def State.endPostCheck (s : State) : State :=
  match s.cmd.held with
  | some h =>
    match h.work with
    | .postCheck point high deadline tag => s.postCheckDone point high deadline tag
    | _ => s
  | none => s

/-- DEMAND_POST_CHECK_DONE (R120). -/
def execDemandPostCheckDone (s : State) : Host.Outcome State Fault Refusal := .next s.served.endPostCheck

/-- DEMAND_CANCEL (R127). -/
def execDemandCancel (s : State) : Host.Outcome State Fault Refusal := .next (s.served.takeCommand 0x0041 State.demandCancel)

end Sys2Proof.Machine
end

