-- ==== Sys2Proof/Machine/Slots.lean ====
section
/-! DEFINITION. The decisions of a slot: the run-time re-check (R21, R22), the gate (R8), the work of each kind (R41 to
R43) and the take of a demand (R123, R124). -/

namespace Sys2Proof.Machine

/-! ## A failed re-check (R22) -/

/-- A failed re-check: PLAN FAULT is written and the slot ends (R22). The trunk field of the record, which R22 does
not name, is none (assumption 33, DESIGN CHOICE). -/
def State.planFault (s : State) (e : CheckFailure) : State :=
  (s.report .planFault none 0 .none s.slotItem e.detail).endSlot

/-! ## The gate (R8) -/

/-- The gate bit matches the slot's sense; gate NONE always does. -/
def gateMatches (gates : BitVec 8) (gate : Option GateTest) : Bool :=
  match gate with
  | none => true
  | some g => gates.getLsbD g.gate == g.runIfSet

/-! ## The work of each kind -/

/-- SEND-ON-COMMIT holds the point back: it is a WRITE or EXCHANGE with the flag set and COMMITTED clear (R41, R114). -/
def State.heldBack (s : State) (p : BitVec 8) (r : PointRecord) : Bool :=
  r.function.usesOut && r.sendOnCommit && !(s.point p).committed

/-- A TRANSFER slot that has passed its re-check and gate (R41, R89). -/
def State.transferSlot (s : State) (p : BitVec 8) (r : PointRecord) (retries : Nat) (policy : RetryPolicy) : State :=
  if r.station = Config.broadcastStation then
    if s.heldBack p r then s.endSlot else s.needTrunk (fun s => s.handOverBroadcast none p r)
  else
    match (s.station r.station).state with
    | .off => s.endSlot
    | .absent =>
      if (s.station r.station).probeCountdown = 0 then s.needTrunk (fun s => s.handOverProbe p r (retries + 1) policy)
      else s.endSlot
    | .confirming => s.needTrunk (fun s => s.handOverProbe p r (retries + 1) policy)
    | .online | .suspect =>
      if s.heldBack p r then s.endSlot
      else s.needTrunk (fun s => s.handOverPoint none p r (retries + 1) policy)

/-- The take of the first eligible WAITING demand: it becomes IN FLIGHT, DEMAND RETRIES is sampled, and the read of its
point record begins; without one the slot ends EMPTY (R42, R123). -/
def State.takeDemand (s : State) : State :=
  match takeFirst s.servable s.demands with
  | none => s.endSlot
  | some (_, list) =>
    ({ s with
        demands := list
        eng := { s.eng with phase := .demandReading s.set.demandRetries.toNat } }).beginEngineRead

/-- An OPEN slot that has passed its re-check and gate (R42). -/
def State.openSlot (s : State) : State :=
  if s.demands.any s.servable then s.needTrunk State.takeDemand else s.endSlot

/-- A PAUSE slot waits until its length has passed since the slot began, `elapsed` microseconds ago (R6, R43). -/
def State.beginPause (s : State) (length elapsed : Nat) : State :=
  { s with eng := { s.eng with phase := .pausing (length - elapsed) } }

/-- The work of a slot's kind (R40, step 3). -/
def State.slotWork (s : State) (start : SlotStart) (elapsed : Nat) : State :=
  match start.slot.work, start.point with
  | .transfer p retries policy, some r => s.transferSlot p r retries policy
  | .transfer _ _ _, none => s.endSlot
  | .openSlot, _ => s.openSlot
  | .sync, _ => s.needTrunk State.handOverSync
  | .pause length, _ => s.beginPause length elapsed

/-- The slot start reads have come to their end, `elapsed` microseconds after the slot began: the re-check, the gate,
the work (R40). The gate is sampled now, so a write to GATES that is taken during the reads is seen, which R8 leaves
open (assumption 32, DESIGN CHOICE). -/
def State.slotChecked (s : State) (elapsed : Nat) : State :=
  match s.engineFinds (recheckSlot s.activeBase s.eng.slot) with
  | .error e => s.endEngineRead.planFault e
  | .ok start =>
    if gateMatches s.set.gates start.slot.gate then s.endEngineRead.slotWork start elapsed else s.endEngineRead.endSlot

/-- The slot start reads complete (R21, R40). -/
def State.slotReadDone (s : State) (elapsed : Nat) : State := (s.engineReadsOn Config.readLimit).slotChecked elapsed

/-! ## The taken demand (R123, R124) -/

/-- A demand whose record failed a check leaves the list with outcome NONE, and the slot ends EMPTY (R124). -/
def State.failDemand (s : State) (d : Demand) (code : Nat) : State :=
  (s.dropInFlight.reportDemand d none .none code).endSlot

/-- The hand-over of a taken demand, with DEMAND RETRIES as sampled and the ALTERNATE policy (R50, R123). -/
def State.handOverDemand (s : State) (d : Demand) (r : PointRecord) (retries : Nat) : State :=
  if r.station = Config.broadcastStation then s.handOverBroadcast (some d.tag) d.point r
  else s.handOverPoint (some d.tag) d.point r (retries + 1) .alternate

/-- The trunk need of a taken demand: without a READY trunk it first returns to WAITING (R124). -/
def State.needTrunkForDemand (s : State) (d : Demand) (r : PointRecord) (retries : Nat) : State :=
  if s.anyReady then s.handOverDemand d r retries else s.returnDemand.needTrunk (fun s => s)

/-- The read of the taken demand's point record has come to its end: a failed check, a demand no longer eligible, no
trunk, or the hand-over (R123, R124). -/
def State.demandChecked (s : State) (retries : Nat) : State :=
  match s.demandInFlight with
  | none => s.endEngineRead.endSlot
  | some d =>
    match s.engineFinds (checkDemand d) with
    | .error code => s.endEngineRead.failDemand d code
    | .ok r =>
      if s.eligible d then s.endEngineRead.needTrunkForDemand d r retries
      else s.endEngineRead.returnDemand.endSlot

/-- The read of the taken demand's point record completes (R123). -/
def State.demandReadDone (s : State) (retries : Nat) : State :=
  (s.engineReadsOn Config.readLimit).demandChecked retries

end Sys2Proof.Machine
end

