-- ==== Sys2Proof/Machine/RingPort.lean ====
section
/-! DEFINITION. The event ring towards the host: publication (R149, R157), the read index (R150, R155) and the ring's
registers (R148, R157). -/

namespace Sys2Proof.Machine

/-- The ring after the record at the head of the list is published (R149). -/
def Ring.publish (r : Ring) (rest : List EventRecord) : Ring :=
  { r with awaiting := rest, writeIndex := (r.writeIndex + 1) % r.entries }

/-- The causes a publication sets: EVENT, and WATERMARK when the published occupancy reaches it (R157, R158). -/
def publicationCauses (r : Ring) : BitVec 5 :=
  if r.published = r.watermark.toNat then causeEvent ||| causeWatermark else causeEvent

/-- The record at the head is whole in the RAM and is published: the write index passes it, and the next is stored from
its first word (R149). -/
def State.advanceRing (s : State) (rest : List EventRecord) : State :=
  { s with
    ring := s.ring.publish rest, port := s.port.raise (publicationCauses (s.ring.publish rest))
    traffic := { s.traffic with stored := 0 } }

/-- The words of the head record that are not stored yet are stored, the eighth publishes it (R149; assumption 10). -/
def State.publish (s : State) : State :=
  match s.ring.awaiting with
  | [] => s
  | _ :: rest => (s.serveMany .eventWriter (8 - s.traffic.stored)).advanceRing rest

/-! ## The read index -/

/-- How many records a write of `value` to RING READ INDEX would consume (R150). -/
def Ring.consumed (r : Ring) (value : Nat) : Nat := (value + r.entries - r.readIndex) % r.entries

/-- The ring resumes: RESUMED is reserved with the dropped count, and DROPPING is cleared (R155). -/
def State.resume (s : State) : State :=
  { s with
    ring :=
      { s.ring with
        awaiting := s.ring.awaiting ++ [s.record .resumed none 0 .none 0 (BitVec.ofNat 16 s.ring.dropped)]
        dropping := false, dropped := 0 } }

/-- The address of RING READ INDEX. -/
def readIndexAddress : HostAddress := 0x0072

/-- A host write to RING READ INDEX (R150, R155). -/
def State.writeReadIndex (s : State) (value : Word) : State :=
  if s.ring.entries ≤ value.toNat then s.hostError .badReadIndex readIndexAddress
  else if s.ring.published < s.ring.consumed value.toNat then s.hostError .badReadIndex readIndexAddress
  else
    let moved := { s with ring := { s.ring with readIndex := value.toNat } }
    if moved.ring.dropping && decide (moved.ring.reserved ≤ moved.ring.entries / 2) then moved.resume else moved

/-! ## RING BASE, RING SIZE and RING WATERMARK -/

/-- The engine is RUNNING or DRAINING: the ring's registers are locked (R148). -/
def State.engineWalks (s : State) : Bool := s.eng.state == .running || s.eng.state == .draining

/-- The emptied ring of an accepted RING BASE or RING SIZE write (R148), also of both resets (R156). -/
def Ring.emptied (r : Ring) : Ring :=
  { r with readIndex := 0, writeIndex := 0, awaiting := [], dropping := false, dropped := 0 }

/-- An accepted RING BASE or RING SIZE write: the ring is emptied, and a record partly stored is abandoned (R148,
R156). -/
def State.placeRing (s : State) (r : Ring) : State := { s with ring := r, traffic := { s.traffic with stored := 0 } }

/-- The ring that the write would describe lies wholly inside the RAM (R148). -/
def ringFits (base size : Nat) : Bool := base + 8 * 2 ^ size ≤ Config.ramWords

/-- The address of RING BASE. -/
def ringBaseAddress : HostAddress := 0x0070

/-- The address of RING SIZE. -/
def ringSizeAddress : HostAddress := 0x0071

/-- A host write to RING BASE: range, lock, fit (R148). -/
def State.writeRingBase (s : State) (value : Word) : State :=
  if 16383 < value.toNat then s.hostError .badValue ringBaseAddress
  else if s.engineWalks then s.hostError .locked ringBaseAddress
  else if !ringFits value.toNat s.ring.size.toNat then s.hostError .badValue ringBaseAddress
  else s.placeRing { s.ring.emptied with base := value }

/-- A host write to RING SIZE: range, lock, fit; the watermark may be lowered (R148). -/
def State.writeRingSize (s : State) (value : Word) : State :=
  if value.toNat < 4 || 10 < value.toNat then s.hostError .badValue ringSizeAddress
  else if s.engineWalks then s.hostError .locked ringSizeAddress
  else if !ringFits s.ring.base.toNat value.toNat then s.hostError .badValue ringSizeAddress
  else
    let last := 2 ^ value.toNat - 1
    s.placeRing
      { s.ring.emptied with
        size := value
        watermark := if last < s.ring.watermark.toNat then BitVec.ofNat 16 last else s.ring.watermark }

/-- A host write to RING BASE or RING SIZE (R148). -/
def State.writeRingGeometry (s : State) (register : RingRegister) (value : Word) : State :=
  match register with
  | .base => s.writeRingBase value
  | .size => s.writeRingSize value

end Sys2Proof.Machine
end

