-- ==== Sys2Proof/Machine/EngineControl.lean ====
section
/-! DEFINITION. The engine commands (R25 to R30, R46) and their completions. -/

namespace Sys2Proof.Machine

/-- A refusal with the engine's state code as detail (R25 to R30). -/
def State.refuseEngine (s : State) : State := s.complete .refusedState (BitVec.ofNat 16 s.eng.state.code)

/-- The refusal for want of a plan: detail 4, NO PLAN (R25, R26). -/
def State.refuseNoPlan (s : State) : State := s.complete .refusedState 4

/-- START, taken (R25). -/
def State.start (s : State) : State :=
  match s.eng.state with
  | .idle =>
    if s.eng.active.isNone then s.refuseNoPlan
    else ((s.changeEngine .running .none engineCauseStart).beginSweep).complete .done 0
  | .running => s.complete .done 0
  | .draining => (s.changeEngine .running .none engineCauseStart).complete .done 0
  | .halted => s.refuseEngine

/-- STEP, taken (R26). -/
def State.stepRound (s : State) : State :=
  match s.eng.state with
  | .idle =>
    if s.eng.active.isNone then s.refuseNoPlan
    else ((s.changeEngine .draining .roundEnd engineCauseStep).beginSweep).complete .done 0
  | .running | .draining | .halted => s.refuseEngine

/-- STOP ROUND, taken (R27). -/
def State.stopRound (s : State) : State :=
  match s.eng.state with
  | .running => (s.changeEngine .draining .roundEnd engineCauseStopRound).complete .done 0
  | .draining => ({ s with eng := { s.eng with stop := .roundEnd } }).complete .done 0
  | .idle | .halted => s.refuseEngine

/-- STOP SWEEP, taken: an existing stop point is kept (R27). -/
def State.stopSweep (s : State) : State :=
  match s.eng.state with
  | .running => (s.changeEngine .draining .sweepEnd engineCauseStopSweep).complete .done 0
  | .draining => s.complete .done 0
  | .idle | .halted => s.refuseEngine

/-- CLEAR HALT, taken (R30, R31). -/
def State.clearHalt (s : State) : State :=
  match s.eng.state with
  | .halted =>
    (((({ s with eng := { s.eng with halt := .none } }).changeEngine .idle .none engineCauseClearHalt).raise
      causeEngine)).complete .done 0
  | .idle | .running | .draining => s.refuseEngine

/-! ## ABORT (R29, R75, R124) -/

/-- What ABORT does to the work of the slot in progress: a transfer is cut and ends ABORTED with its reports, a demand
whose record is being read leaves ABORTED; a pause, a record read and a wait for the timer just end. -/
def State.abortSlot (s : State) : State :=
  match s.xfer with
  | some x => (s.cutAttempt x).transferReports { x with outcome := .aborted } .aborted
  | none =>
    match s.eng.phase, s.demandInFlight with
    | .demandReading _, some d => s.dropInFlight.reportDemand d none .aborted 0
    | _, _ => s

/-- ABORT, taken (R29). The bound takes the answer window kept when the attempt was cut, before a pending switch is
applied, which R29 leaves open (assumption 34, DESIGN CHOICE). Without an attempt in flight it completes as soon as
the engine is IDLE, with the result of assumption 37, else it waits for quiet. -/
def State.abort (s : State) : State :=
  match s.eng.state with
  | .idle | .halted => s.complete .done 0
  | .running | .draining =>
    let stopped := s.abortSlot.stopEngine .idle .none engineCauseAbort
    match s.xfer with
    | some x => stopped.holdCommand (.abortWait x.trunk s.cutBound)
    | none => stopped.complete .done 0

/-- The time until the trunk is quiet, if nothing more is heard, or until the bound (R29). -/
def State.quietDelay (s : State) (t : TrunkId) (boundLeft : Nat) : Nat := min (s.quietLeft t) boundLeft

/-- ABORT completes (R29), with DONE and detail 0, which R29 states for IDLE and HALTED only (assumption 37, DESIGN
CHOICE). -/
def State.abortComplete (s : State) : State :=
  match s.cmd.held with
  | some h =>
    match h.work with
    | .abortWait t left => (s.elapse (s.quietDelay t left)).complete .done 0
    | _ => s
  | none => s

/-! ## ENGINE RESET (R46) -/

/-- The engine after ENGINE RESET: the active bank and its geometry are kept, a pending switch is discarded (R46). -/
def Engine.engineReset (e : Engine) : Engine := { Engine.reset with active := e.active }

/-- The part in the one step of ENGINE RESET: run-time state only, without events or the ENGINE cause (R46). -/
def State.resetRunTime (s : State) : State :=
  let cut := match s.xfer with
    | some x => s.cutAttempt x
    | none => s
  { cut with
    eng := s.eng.engineReset
    xfer := none
    stations := s.stations.map Station.engineReset
    points := Vector.replicate 256 .reset
    demands := []
    ring := s.ring.emptied
    port := { s.port with irqCause := s.port.irqCause &&& causeCommand }
    traffic := { s.traffic with engine := none, stored := 0 } }

/-- ENGINE RESET, taken (R46): it waits for quiet if an attempt was cut. -/
def State.engineReset (s : State) : State :=
  match s.xfer with
  | some x => s.resetRunTime.holdCommand (.resetWait x.trunk s.cutBound)
  | none => s.resetRunTime.complete .done 0

/-- ENGINE RESET completes (R46). -/
def State.engineResetComplete (s : State) : State :=
  match s.cmd.held with
  | some h =>
    match h.work with
    | .resetWait t left => (s.elapse (s.quietDelay t left)).complete .done 0
    | _ => s
  | none => s

/-! ## The codes of COMMAND (Table 11-5) -/

/-- What a command does when it is taken; a code that names no command completes with BAD OPERAND (R173). -/
def State.act (s : State) (code : Word) : State :=
  match code.toNat with
  | 0x01 => s.start
  | 0x02 => s.stepRound
  | 0x03 => s.stopRound
  | 0x04 => s.stopSweep
  | 0x05 => s.abort
  | 0x06 => s.clearHalt
  | 0x07 => s.engineReset
  | 0x10 => s.switchPlan
  | 0x11 => s.validatePlan
  | 0x20 => s.stationEnable
  | 0x21 => s.stationDisable
  | 0x30 => s.pointCommand .hold
  | 0x31 => s.pointCommand .release
  | 0x32 => s.pointCommand .commit
  | 0x40 => s.demandPost
  | 0x41 => s.demandCancel
  | 0x50 => s.trunkCommand .train
  | 0x51 => s.trunkCommand .off
  | _ => s.complete .badOperand 0

/-- A host write to COMMAND (R173). -/
def State.writeCommand (s : State) (code : Word) : State := s.takeCommand code (fun s => s.act code)

end Sys2Proof.Machine
end

