-- ==== Sys2Proof/Machine/EngineCommands.lean ====
section
/-! DEFINITION. The commands of the schedule engine and the two completions that wait for quiet (R25 to R30, R46). -/

namespace Sys2Proof.Machine

/-- START (R25). -/
def execStart (s : State) : Host.Outcome State Fault Refusal := .next (s.served.takeCommand 0x0001 State.start)

/-- STEP (R26). -/
def execStep (s : State) : Host.Outcome State Fault Refusal := .next (s.served.takeCommand 0x0002 State.stepRound)

/-- STOP_ROUND (R27). -/
def execStopRound (s : State) : Host.Outcome State Fault Refusal := .next (s.served.takeCommand 0x0003 State.stopRound)

/-- STOP_SWEEP (R27). -/
def execStopSweep (s : State) : Host.Outcome State Fault Refusal := .next (s.served.takeCommand 0x0004 State.stopSweep)

/-- ABORT (R29). -/
def execAbort (s : State) : Host.Outcome State Fault Refusal := .next (s.served.takeCommand 0x0005 State.abort)

/-- ABORT_COMPLETE (R29). -/
def execAbortComplete (s : State) : Host.Outcome State Fault Refusal := .next s.served.abortComplete

/-- CLEAR_HALT (R30). -/
def execClearHalt (s : State) : Host.Outcome State Fault Refusal := .next (s.served.takeCommand 0x0006 State.clearHalt)

/-- ENGINE_RESET (R46). -/
def execEngineReset (s : State) : Host.Outcome State Fault Refusal := .next (s.served.takeCommand 0x0007 State.engineReset)

/-- ENGINE_RESET_COMPLETE (R46). -/
def execEngineResetComplete (s : State) : Host.Outcome State Fault Refusal := .next s.served.engineResetComplete

end Sys2Proof.Machine
end

