-- ==== Sys2Proof/Machine/EngineEvents.lean ====
section
/-! DEFINITION. The events of rounds and slots (R6, R21, R33, R123). An event that the state cannot give rise to changes
nothing (assumption 4). -/

namespace Sys2Proof.Machine

/-- The round timer, RUNNING, comes to its end (R33). -/
def State.roundTimerEnds (s : State) : State :=
  match s.eng.timer with
  | .running left => (s.elapse left).timerExpired
  | .stopped => s
  | .expired => s

/-- ROUND_TIMER_EXPIRY (R33 to R36). -/
def execRoundTimerExpiry (s : State) : Host.Outcome State Fault Refusal := .next s.served.roundTimerEnds

/-- The slot start reads end (R21). -/
def State.endSlotRead (s : State) : State :=
  match s.eng.phase with
  | .reading elapsed => s.slotReadDone elapsed
  | .none => s
  | .demandReading _ => s
  | .pausing _ => s
  | .transferring => s

/-- SLOT_RECORD_READ_DONE (R21, R40). -/
def execSlotRecordReadDone (s : State) : Host.Outcome State Fault Refusal := .next s.served.endSlotRead

/-- The read of the taken demand's record ends (R123). -/
def State.endDemandRead (s : State) : State :=
  match s.eng.phase with
  | .demandReading retries => s.demandReadDone retries
  | .none => s
  | .reading _ => s
  | .pausing _ => s
  | .transferring => s

/-- DEMAND_RECORD_READ_DONE (R123, R124). -/
def execDemandRecordReadDone (s : State) : Host.Outcome State Fault Refusal := .next s.served.endDemandRead

/-- The pause length has passed: the slot ends (R6, R43). -/
def State.endPause (s : State) : State :=
  match s.eng.phase with
  | .pausing left => (s.elapse left).endSlot
  | .none => s
  | .reading _ => s
  | .demandReading _ => s
  | .transferring => s

/-- PAUSE_END (R6). -/
def execPauseEnd (s : State) : Host.Outcome State Fault Refusal := .next s.served.endPause

end Sys2Proof.Machine
end

