-- ==== Sys2Proof/Machine/Registers.lean ====
section
/-! DEFINITION. The register window (Table 11-1): its registers, their addresses and their access types, and the command
codes (Table 11-5). -/

namespace Sys2Proof.Machine

/-- The 59 registers of the register window (Table 11-1). -/
inductive Register where
  | id
  | revision
  | command
  | cmdStatus
  | cmdResult
  | cmdDetail
  | cmdArg (i : Fin 4)
  | irqCause
  | irqEnable
  | hostError
  | hostErrorAddress
  | timeLow
  | timeHigh
  | engineStatus
  | enginePosition
  | sweepCount
  | planABase
  | planBBase
  | gates
  | demandRetries
  | transferStatus
  | transferPoint
  | occupancyGuard
  | pointBase
  | pointCount
  | pointSelect
  | pointWindow (i : Fin 5)
  | stationSelect
  | suspectAfter
  | absentAfter
  | confirmCount
  | probeInterval
  | stationWindow (i : Fin 6)
  | demandStatus
  | trunkRate
  | trainingTimeout
  | trunkFaultLimit
  | trunkStatus (t : TrunkId)
  | ringBase
  | ringSize
  | ringReadIndex
  | ringWriteIndex
  | ringStatus
  | droppedCount
  | ringWatermark
  | eventEnable
deriving DecidableEq, Repr

/-- The register at a host word address of the register window; `none` where no register is assigned (Table 11-1). -/
def registerAt (address : Nat) : Option Register :=
  match address with
  | 0x00 => some .id
  | 0x01 => some .revision
  | 0x04 => some .command
  | 0x05 => some .cmdStatus
  | 0x06 => some .cmdResult
  | 0x07 => some .cmdDetail
  | 0x08 => some (.cmdArg 0)
  | 0x09 => some (.cmdArg 1)
  | 0x0A => some (.cmdArg 2)
  | 0x0B => some (.cmdArg 3)
  | 0x10 => some .irqCause
  | 0x11 => some .irqEnable
  | 0x12 => some .hostError
  | 0x13 => some .hostErrorAddress
  | 0x14 => some .timeLow
  | 0x15 => some .timeHigh
  | 0x20 => some .engineStatus
  | 0x21 => some .enginePosition
  | 0x22 => some .sweepCount
  | 0x23 => some .planABase
  | 0x24 => some .planBBase
  | 0x25 => some .gates
  | 0x26 => some .demandRetries
  | 0x30 => some .transferStatus
  | 0x31 => some .transferPoint
  | 0x32 => some .occupancyGuard
  | 0x33 => some .pointBase
  | 0x34 => some .pointCount
  | 0x35 => some .pointSelect
  | 0x38 => some (.pointWindow 0)
  | 0x39 => some (.pointWindow 1)
  | 0x3A => some (.pointWindow 2)
  | 0x3B => some (.pointWindow 3)
  | 0x3C => some (.pointWindow 4)
  | 0x40 => some .stationSelect
  | 0x41 => some .suspectAfter
  | 0x42 => some .absentAfter
  | 0x43 => some .confirmCount
  | 0x44 => some .probeInterval
  | 0x48 => some (.stationWindow 0)
  | 0x49 => some (.stationWindow 1)
  | 0x4A => some (.stationWindow 2)
  | 0x4B => some (.stationWindow 3)
  | 0x4C => some (.stationWindow 4)
  | 0x4D => some (.stationWindow 5)
  | 0x50 => some .demandStatus
  | 0x60 => some .trunkRate
  | 0x61 => some .trainingTimeout
  | 0x62 => some .trunkFaultLimit
  | 0x63 => some (.trunkStatus .a)
  | 0x64 => some (.trunkStatus .b)
  | 0x70 => some .ringBase
  | 0x71 => some .ringSize
  | 0x72 => some .ringReadIndex
  | 0x73 => some .ringWriteIndex
  | 0x74 => some .ringStatus
  | 0x75 => some .droppedCount
  | 0x76 => some .ringWatermark
  | 0x77 => some .eventEnable
  | _ => none

/-- Access type R of Table 11-1: a write is ignored with HOST ERROR READ ONLY (R164). -/
def Register.readOnly (r : Register) : Bool :=
  match r with
  | .id | .revision | .cmdStatus | .cmdResult | .cmdDetail | .hostErrorAddress | .timeLow | .timeHigh
  | .engineStatus | .enginePosition | .sweepCount | .transferStatus | .transferPoint | .pointWindow _
  | .demandStatus | .trunkStatus _ | .ringWriteIndex | .ringStatus | .droppedCount => true
  | .stationWindow i => 2 ≤ i.val
  | .command | .cmdArg _ | .irqCause | .irqEnable | .hostError | .planABase | .planBBase | .gates | .demandRetries
  | .occupancyGuard | .pointBase | .pointCount | .pointSelect | .stationSelect | .suspectAfter | .absentAfter
  | .confirmCount | .probeInterval | .trunkRate | .trainingTimeout | .trunkFaultLimit | .ringBase | .ringSize
  | .ringReadIndex | .ringWatermark | .eventEnable => false

/-- The registers whose write is a row of the table of its own: COMMAND, IRQ CAUSE, HOST ERROR, the configuration words
of the station window, RING BASE, RING SIZE and RING READ INDEX. -/
def Register.hasOwnWrite (r : Register) : Bool :=
  match r with
  | .command | .irqCause | .hostError | .ringBase | .ringSize | .ringReadIndex => true
  | .stationWindow i => i.val < 2
  | _ => false

/-- The register window ends at 00FFh and the shared memory window begins at 4000h (Table 9-1). -/
def sharedMemoryStart : Nat := 0x4000

/-- An address that reaches nothing (Table 9-1, R165). -/
def unmapped (address : HostAddress) : Bool :=
  address.toNat < sharedMemoryStart && (registerAt address.toNat).isNone

/-- Command codes that name a command (Table 11-5). -/
def commandDefined (code : Word) : Bool :=
  match code.toNat with
  | 0x01 | 0x02 | 0x03 | 0x04 | 0x05 | 0x06 | 0x07 | 0x10 | 0x11 | 0x20 | 0x21 | 0x30 | 0x31 | 0x32 | 0x40 | 0x41
  | 0x50 | 0x51 => true
  | _ => false

end Sys2Proof.Machine
end

