-- ==== Sys2Proof/Machine/HostPort.lean ====
section
/-! DEFINITION. The host port: what every register reads (Tables 11-2 to 11-4), how every register's owner judges a
write (R164), the address decode (Table 9-1), and both edges of RESET (R176). -/

namespace Sys2Proof.Machine

/-! ## What the registers read -/

/-- A 16-bit register value. -/
def regWord (n : Nat) : Word := BitVec.ofNat 16 n

/-- ENGINE STATUS (R24, Table 11-2). -/
def Engine.statusWord (e : Engine) : Word :=
  regWord (e.state.code + 4 * e.stop.code + 16 * e.halt.code + 256 * bankField (e.active.map (·.bank))
    + 1024 * bankField (e.pending.map (·.bank)))

/-- ENGINE POSITION (R24, Table 11-2). -/
def Engine.positionWord (e : Engine) : Word :=
  regWord (1024 * e.round + 512 * flagBit (e.phase != .none) + e.slot)

/-- TRANSFER STATUS (R76, Table 11-2). -/
def transferStatusWord (x : Option Transfer) : Word :=
  match x with
  | none => 0
  | some x =>
    regWord (32768 + 4096 * x.kind.code + 512 * x.attempts + 256 * trunkBit x.trunk + 128 * flagBit x.toggle
      + 64 * flagBit x.demandTag.isSome + x.station)

/-- TRANSFER POINT (R76, Table 11-2). -/
def transferPointWord (x : Option Transfer) : Word :=
  match x with
  | none => 0
  | some x => regWord (256 * (x.demandTag.getD 0).toNat + x.point.toNat)

/-- The words of the point window (R102, Table 11-3). -/
def PointEntry.windowWord (e : PointEntry) (i : Fin 5) : Word :=
  match i with
  | 0 =>
    regWord (flagBit e.stable + 2 * flagBit e.transmit + 4 * flagBit e.hold + 8 * flagBit e.pending
      + 16 * flagBit e.committed + 32 * flagBit e.inFlight)
  | 1 => e.updates
  | 2 => regWord e.lastOutcome.code
  | 3 => e.stampSweep
  | 4 => regWord e.stampRound

/-- The words of the station window (R79, Table 11-3). -/
def Station.windowWord (r : Station) (i : Fin 6) : Word :=
  match i with
  | 0 => r.expectedIdentity
  | 1 => regWord (trunkBit r.preferredTrunk)
  | 2 => regWord (r.state.code + 16 * trunkBit r.currentTrunk + 32 * flagBit r.nextToggle + 64 * flagBit r.mismatch)
  | 3 => regWord (4096 * r.failureRun + 256 * r.confirmCount + r.probeCountdown)
  | 4 => r.lastCondition.setWidth 16
  | 5 => r.heardIdentity

/-- DEMAND STATUS (R130, Table 11-2). -/
def State.demandStatusWord (s : State) : Word :=
  match s.demandInFlight with
  | none => regWord s.demands.length
  | some d => regWord (256 * d.tag.toNat + 128 + s.demands.length)

/-- TRUNK A STATUS and TRUNK B STATUS (R145, Table 11-4). -/
def Trunk.statusWord (t : Trunk) : Word := regWord (t.state.code + 16 * t.faults + 256 * t.training)

/-- RING STATUS (R151, Table 11-4). -/
def Ring.statusWord (r : Ring) : Word := regWord (32768 * flagBit r.dropping + r.published)

/-- CMD ARG 0 to 3 (R172). -/
def CommandArgs.get (a : CommandArgs) (i : Fin 4) : Word :=
  match i with
  | 0 => a.arg0
  | 1 => a.arg1
  | 2 => a.arg2
  | 3 => a.arg3

/-- What a register reads (R164; the rule of each is the one Table 11-1 names). -/
def State.readRegister (s : State) (r : Register) : Word :=
  match r with
  | .id => 0x0062
  | .revision => 0x0001
  | .command => s.cmd.code
  | .cmdStatus => regWord (flagBit s.cmd.held.isSome)
  | .cmdResult => regWord s.cmd.result.code
  | .cmdDetail => s.cmd.detail
  | .cmdArg i => s.cmd.args.get i
  | .irqCause => s.port.irqCause.setWidth 16
  | .irqEnable => s.port.irqEnable.setWidth 16
  | .hostError => regWord s.port.errorCode.code
  | .hostErrorAddress => s.port.errorAddress.setWidth 16
  | .timeLow => s.time.extractLsb' 0 16
  | .timeHigh => s.port.timeHold
  | .engineStatus => s.eng.statusWord
  | .enginePosition => s.eng.positionWord
  | .sweepCount => s.eng.sweep
  | .planABase => s.set.planABase
  | .planBBase => s.set.planBBase
  | .gates => s.set.gates.setWidth 16
  | .demandRetries => s.set.demandRetries
  | .transferStatus => transferStatusWord s.xfer
  | .transferPoint => transferPointWord s.xfer
  | .occupancyGuard => s.set.occupancyGuard
  | .pointBase => s.set.pointBase
  | .pointCount => s.set.pointCount
  | .pointSelect => s.set.pointSelect
  | .pointWindow i => (s.point (s.set.pointSelect.setWidth 8)).windowWord i
  | .stationSelect => s.set.stationSelect
  | .suspectAfter => s.set.suspectAfter
  | .absentAfter => s.set.absentAfter
  | .confirmCount => s.set.confirmCount
  | .probeInterval => s.set.probeInterval
  | .stationWindow i => (s.station s.set.stationSelect.toNat).windowWord i
  | .demandStatus => s.demandStatusWord
  | .trunkRate => s.set.trunkRate
  | .trainingTimeout => s.set.trainingTimeout
  | .trunkFaultLimit => s.set.trunkFaultLimit
  | .trunkStatus t => (s.trunk t).statusWord
  | .ringBase => s.ring.base
  | .ringSize => s.ring.size
  | .ringReadIndex => regWord s.ring.readIndex
  | .ringWriteIndex => regWord s.ring.writeIndex
  | .ringStatus => s.ring.statusWord
  | .droppedCount => regWord s.ring.dropped
  | .ringWatermark => s.ring.watermark
  | .eventEnable => s.ring.enable

/-- The host port returns a word to the host. -/
def State.answerRead (s : State) (w : Word) : State := { s with port := { s.port with readData := w } }

/-- A read of TIME LOW also copies the upper half of the time tag into the holding register (R167). -/
def State.readTimeLow (s : State) : State :=
  { s with port := { s.port with readData := s.time.extractLsb' 0 16, timeHold := s.time.extractLsb' 16 16 } }

/-- A register read, taken: it changes nothing in the part but for the capture of R167 (R164). -/
def State.takeRead (s : State) (r : Register) : State :=
  match r with
  | .timeLow => s.readTimeLow
  | _ => s.answerRead (s.readRegister r)

/-! ## How the owners judge a write -/

/-- An owner's judgement: the value is stored, or the write is ignored with a host error (R164, R162). -/
def State.judge (s : State) (accepted : Bool) (address : HostAddress) (error : HostError) (stored : State) : State :=
  if accepted then stored else s.hostError error address

/-- The word lies in the register's range. -/
def inRange (value : Word) (low high : Nat) : Bool := low ≤ value.toNat && value.toNat ≤ high

/-- The largest POINT COUNT (R99). -/
def maxPointCount : Nat := 256

/-- `count` point records at `base` lie wholly inside the RAM (R99). -/
def pointsFit (base count : Nat) : Bool := base + 8 * count ≤ Config.ramWords

/-- A setting takes a value. -/
def State.store (s : State) (settings : Settings) : State := { s with set := settings }

/-- A host write to IRQ CAUSE clears the causes whose bit is 1 (R159). -/
def State.clearCauses (s : State) (value : Word) : State := { s with port := s.port.clearCauses (value.setWidth 5) }

/-- A host write to HOST ERROR, of any value (R162). -/
def State.clearHostError (s : State) : State := { s with port := s.port.emptyLatch }

/-- CMD ARG `i` takes a value (R172). -/
def CommandArgs.put (a : CommandArgs) (i : Fin 4) (value : Word) : CommandArgs :=
  match i with
  | 0 => { a with arg0 := value }
  | 1 => { a with arg1 := value }
  | 2 => { a with arg2 := value }
  | 3 => { a with arg3 := value }

/-- A host write to CMD ARG `i`: the whole word is stored in every state (R172). -/
def State.writeArg (s : State) (i : Fin 4) (value : Word) : State :=
  { s with cmd := { s.cmd with args := s.cmd.args.put i value } }

/-- The trunk number a word of the station window names: the codes of a trunk operand (R80). -/
def preferredTrunkOf (value : Word) : Option TrunkId := trunkOfOperand value

/-- The host address of a word of the station window (Table 11-1). -/
def stationWordAddress (w : StationWord) : HostAddress :=
  match w with
  | .expectedIdentity => 0x0048
  | .preferredTrunk => 0x0049

/-- A host write to word 0 or 1 of the station window: stored while the selected station is OFF, else LOCKED (R80). -/
def State.writeStation (s : State) (w : StationWord) (value : Word) : State :=
  let n := s.set.stationSelect.toNat
  let r := s.station n
  if r.state ≠ .off then s.hostError .locked (stationWordAddress w)
  else
    match w with
    | .expectedIdentity => s.setStation n { r with expectedIdentity := value }
    | .preferredTrunk =>
      match preferredTrunkOf value with
      | some t => s.setStation n { r with preferredTrunk := t }
      | none => s.hostError .badValue (stationWordAddress w)

/-- Both trunk interfaces are OFF (R143). -/
def State.bothOff (s : State) : Bool := s.trunkA.state == .off && s.trunkB.state == .off

/-- A host write to TRUNK RATE: the range first, then the lock (R143). -/
def State.writeTrunkRate (s : State) (address : HostAddress) (value : Word) : State :=
  if 2 < value.toNat then s.hostError .badValue address
  else s.judge s.bothOff address .locked (s.store { s.set with trunkRate := value })

/-- A host write handed to the register's owner (R164; the rule of each is the one Table 11-1 names). -/
def State.writeRegister (s : State) (r : Register) (address : HostAddress) (value : Word) : State :=
  match r with
  | .command => s.writeCommand value
  | .cmdArg i => s.writeArg i value
  | .irqCause => s.clearCauses value
  | .irqEnable => { s with port := { s.port with irqEnable := value.setWidth 5 } }
  | .hostError => s.clearHostError
  | .planABase => s.judge (inRange value 0 Config.maxPlanBase) address .badValue (s.store { s.set with planABase := value })
  | .planBBase => s.judge (inRange value 0 Config.maxPlanBase) address .badValue (s.store { s.set with planBBase := value })
  | .gates => s.store { s.set with gates := value.setWidth 8 }
  | .demandRetries => s.judge (inRange value 0 3) address .badValue (s.store { s.set with demandRetries := value })
  | .occupancyGuard => s.judge (inRange value 0 255) address .badValue (s.store { s.set with occupancyGuard := value })
  | .pointBase =>
    s.judge (pointsFit value.toNat s.set.pointCount.toNat) address .badValue (s.store { s.set with pointBase := value })
  | .pointCount =>
    s.judge (inRange value 1 maxPointCount && pointsFit s.set.pointBase.toNat value.toNat) address .badValue
      (s.store { s.set with pointCount := value })
  | .pointSelect => s.judge (inRange value 0 255) address .selectRange (s.store { s.set with pointSelect := value })
  | .stationSelect =>
    s.judge (inRange value 1 Config.stationCount) address .selectRange (s.store { s.set with stationSelect := value })
  | .suspectAfter => s.judge (inRange value 1 15) address .badValue (s.store { s.set with suspectAfter := value })
  | .absentAfter => s.judge (inRange value 1 15) address .badValue (s.store { s.set with absentAfter := value })
  | .confirmCount => s.judge (inRange value 1 7) address .badValue (s.store { s.set with confirmCount := value })
  | .probeInterval => s.judge (inRange value 1 255) address .badValue (s.store { s.set with probeInterval := value })
  | .stationWindow 0 => s.writeStation .expectedIdentity value
  | .stationWindow 1 => s.writeStation .preferredTrunk value
  | .trunkRate => s.writeTrunkRate address value
  | .trainingTimeout => s.judge (inRange value 1 255) address .badValue (s.store { s.set with trainingTimeout := value })
  | .trunkFaultLimit => s.judge (inRange value 1 7) address .badValue (s.store { s.set with trunkFaultLimit := value })
  | .ringBase => s.writeRingBase value
  | .ringSize => s.writeRingSize value
  | .ringReadIndex => s.writeReadIndex value
  | .ringWatermark =>
    s.judge (inRange value 1 (s.ring.entries - 1)) address .badValue { s with ring := { s.ring with watermark := value } }
  | .eventEnable => { s with ring := { s.ring with enable := value &&& enableMask } }
  | .id | .revision | .cmdStatus | .cmdResult | .cmdDetail | .hostErrorAddress | .timeLow | .timeHigh | .engineStatus
  | .enginePosition | .sweepCount | .transferStatus | .transferPoint | .pointWindow _ | .stationWindow _
  | .demandStatus | .trunkStatus _ | .ringWriteIndex | .ringStatus | .droppedCount => s.hostError .readOnly address

/-! ## The address decode (Table 9-1) -/

/-- A shared-memory access is granted in its turn: a write is stored, a read returns the word (R166, R169). -/
def State.sharedAccess (s : State) (a : Nat) (access : Access) : State :=
  match access with
  | .read => (s.serve .hostPort).answerRead ((s.serve .hostPort).readRam a)
  | .write value => (s.serve .hostPort).writeRam a value

/-- An access that reaches nothing: a read returns 0, a write is ignored, UNMAPPED is recorded (R165). -/
def State.unmappedAccess (s : State) (address : HostAddress) (access : Access) : State :=
  match access with
  | .read => (s.answerRead 0).hostError .unmapped address
  | .write _ => s.hostError .unmapped address

/-- A register access (R164). -/
def State.registerAccess (s : State) (r : Register) (address : HostAddress) (access : Access) : State :=
  match access with
  | .read => s.takeRead r
  | .write value => s.writeRegister r address value

/-- A host access, taken: the address alone decides what it reaches (R163). While RESET is asserted none is (R176). -/
def State.hostAccess (s : State) (address : HostAddress) (access : Access) : State :=
  if s.port.resetAsserted then s
  else
    match registerAt address.toNat with
    | some r => s.registerAccess r address access
    | none =>
      if sharedMemoryStart ≤ address.toNat then s.sharedAccess (address.toNat - sharedMemoryStart) access
      else s.unmappedAccess address access

/-! ## The RESET input (R176) -/

/-- A line keeps what its receiver last heard, and a transmission of the part stops where it stands; everything else of
the interface is reset (R131; assumption 9). -/
def State.pinResetTrunk (s : State) (t : TrunkId) : Trunk :=
  let line := if s.transmitting t then (s.trunk t).cutLine else s.trunk t
  { Trunk.reset with gapHold := line.gapHold, quietHold := line.quietHold, frameLeft := line.frameLeft }

/-- RESET is asserted: every register and every block takes its reset value; the RAM and what the world does next are
not the part's to change (R176, R166). -/
def State.pinReset (s : State) : State :=
  { State.reset with
    pending := s.pending
    port := { HostPort.reset with resetAsserted := true }
    trunkA := s.pinResetTrunk .a
    trunkB := s.pinResetTrunk .b
    ram := s.ram
    traffic := { State.reset.traffic with token := s.traffic.token } }

/-- RESET is released: the time base counts again and accesses are taken again (R176, R48). -/
def State.resetRelease (s : State) : State := { s with port := { s.port with resetAsserted := false } }

end Sys2Proof.Machine
end

