-- ==== Sys2Proof/Machine/HostCommands.lean ====
section
/-! DEFINITION. The host's accesses and the two edges of RESET (R159, R162 to R167, R173, R176). Each access acts by the
full address decode, whatever row it is written under (assumption 6). -/

namespace Sys2Proof.Machine

/-- A host write of a code to COMMAND, through the decode. -/
def State.commandWrite (s : State) (code : Word) : State := s.hostAccess commandAddress (.write code)

/-- UNDEFINED_COMMAND (R173). -/
def execUndefinedCommand (code : Word) (s : State) : Host.Outcome State Fault Refusal := .next (s.served.commandWrite code)

/-- COMMAND_OVERRUN (R173). -/
def execCommandOverrun (code : Word) (s : State) : Host.Outcome State Fault Refusal :=
  .next (s.served.hostAccess commandAddress (.write code))

/-- PIN_RESET (R176). -/
def execPinReset (s : State) : Host.Outcome State Fault Refusal := .next s.served.pinReset

/-- RESET_RELEASE (R176). -/
def execResetRelease (s : State) : Host.Outcome State Fault Refusal := .next s.resetRelease

/-- The address of TIME LOW (Table 11-1). -/
def timeLowAddress : HostAddress := 0x0014

/-- TIME_LOW_READ (R167). -/
def execTimeLowRead (s : State) : Host.Outcome State Fault Refusal := .next (s.served.hostAccess timeLowAddress .read)

/-- The address of IRQ CAUSE (Table 11-1). -/
def irqCauseAddress : HostAddress := 0x0010

/-- IRQ_CAUSE_CLEAR (R159). -/
def execIrqCauseClear (value : Word) (s : State) : Host.Outcome State Fault Refusal :=
  .next (s.served.hostAccess irqCauseAddress (.write value))

/-- The address of HOST ERROR (Table 11-1). -/
def hostErrorAddress : HostAddress := 0x0012

/-- HOST_ERROR_CLEAR (R162). -/
def execHostErrorClear (value : Word) (s : State) : Host.Outcome State Fault Refusal :=
  .next (s.served.hostAccess hostErrorAddress (.write value))

/-- READ_ONLY_WRITE (R164). -/
def execReadOnlyWrite (address : HostAddress) (value : Word) (s : State) : Host.Outcome State Fault Refusal :=
  .next (s.served.hostAccess address (.write value))

/-- UNMAPPED_ACCESS (R165). -/
def execUnmappedAccess (address : HostAddress) (access : Access) (s : State) : Host.Outcome State Fault Refusal :=
  .next (s.served.hostAccess address access)

/-- REGISTER_WRITE (R164). -/
def execRegisterWrite (address : HostAddress) (value : Word) (s : State) : Host.Outcome State Fault Refusal :=
  .next (s.served.hostAccess address (.write value))

/-- HOST_SHARED_MEMORY_ACCESS (R166). -/
def execHostSharedMemoryAccess (address : HostAddress) (access : Access) (s : State) :
    Host.Outcome State Fault Refusal := .next (s.served.hostAccess address access)

end Sys2Proof.Machine
end

