-- ==== Sys2Proof/Machine/PlanCommands.lean ====
section
/-! DEFINITION. The plan commands and the end of a validation (R14 to R17). -/

namespace Sys2Proof.Machine

/-- SWITCH_PLAN, with the operand of CMD ARG 0 (R15). -/
def execSwitchPlan (s : State) : Host.Outcome State Fault Refusal := .next (s.served.takeCommand 0x0010 State.switchPlan)

/-- SWITCH_PLAN_CANCEL: SWITCH PLAN whose operand is CANCEL (R17; assumption 5). -/
def execSwitchPlanCancel (s : State) : Host.Outcome State Fault Refusal := .next (s.served.takeCommand 0x0010 State.cancelSwitch)

/-- VALIDATE_PLAN, with the operand of CMD ARG 0 (R14). -/
def execValidatePlan (s : State) : Host.Outcome State Fault Refusal := .next (s.served.takeCommand 0x0011 State.validatePlan)

/-- The validation in progress ends; without one nothing happens (R13 to R16; assumption 4). -/
def State.endValidation (s : State) : State :=
  match s.cmd.held with
  | some h =>
    match h.work with
    | .validation forSwitch bank base => s.validationDone forSwitch bank base
    | _ => s
  | none => s

/-- PLAN_VALIDATION_DONE (R16). -/
def execPlanValidationDone (s : State) : Host.Outcome State Fault Refusal := .next s.served.endValidation

end Sys2Proof.Machine
end

