-- ==== Sys2Proof/Machine/PointCommands.lean ====
section
/-! DEFINITION. The point commands and the end of their record reads (R110 to R113). -/

namespace Sys2Proof.Machine

/-- POINT_HOLD (R110, R111). -/
def execPointHold (s : State) : Host.Outcome State Fault Refusal :=
  .next (s.served.takeCommand 0x0030 (fun s => s.pointCommand .hold))

/-- POINT_RELEASE (R110, R112). -/
def execPointRelease (s : State) : Host.Outcome State Fault Refusal :=
  .next (s.served.takeCommand 0x0031 (fun s => s.pointCommand .release))

/-- POINT_COMMIT (R110, R113). -/
def execPointCommit (s : State) : Host.Outcome State Fault Refusal :=
  .next (s.served.takeCommand 0x0032 (fun s => s.pointCommand .commit))

/-- The record read of a point command ends; without one nothing happens (R110; assumption 4). -/
def State.endPointRead (s : State) : State :=
  match s.cmd.held with
  | some h =>
    match h.work with
    | .pointRead command point => s.pointReadDone command point
    | _ => s
  | none => s

/-- POINT_COMMAND_READ_DONE (R110). -/
def execPointCommandReadDone (s : State) : Host.Outcome State Fault Refusal := .next s.served.endPointRead

end Sys2Proof.Machine
end

