-- ==== Sys2Proof/Machine/RingCommands.lean ====
section
/-! DEFINITION. The event ring: the host's writes to its registers and the publication of a record (R148 to R150). -/

namespace Sys2Proof.Machine

/-- RING_READ_INDEX_WRITE (R150, R155). -/
def execRingReadIndexWrite (value : Word) (s : State) : Host.Outcome State Fault Refusal :=
  .next (s.served.hostAccess readIndexAddress (.write value))

/-- The host address of a register that places the ring (Table 11-1). -/
def ringRegisterAddress (register : RingRegister) : HostAddress :=
  match register with
  | .base => ringBaseAddress
  | .size => ringSizeAddress

/-- RING_GEOMETRY_WRITE (R148). -/
def execRingGeometryWrite (register : RingRegister) (value : Word) (s : State) : Host.Outcome State Fault Refusal :=
  .next (s.served.hostAccess (ringRegisterAddress register) (.write value))

/-- EVENT_RECORD_PUBLISHED (R149, R157). -/
def execEventRecordPublished (s : State) : Host.Outcome State Fault Refusal := .next s.served.publish

end Sys2Proof.Machine
end

