-- ==== Sys2Proof/Machine/StationCommands.lean ====
section
/-! DEFINITION. The station commands and the configuration writes of the station window (R80, R82, R83). -/

namespace Sys2Proof.Machine

/-- STATION_ENABLE (R82). -/
def execStationEnable (s : State) : Host.Outcome State Fault Refusal :=
  .next (s.served.takeCommand 0x0020 State.stationEnable)

/-- STATION_DISABLE (R83, R84). -/
def execStationDisable (s : State) : Host.Outcome State Fault Refusal :=
  .next (s.served.takeCommand 0x0021 State.stationDisable)

/-- STATION_CONFIG_WRITE (R80). -/
def execStationConfigWrite (word : StationWord) (value : Word) (s : State) : Host.Outcome State Fault Refusal :=
  .next (s.served.hostAccess (stationWordAddress word) (.write value))

end Sys2Proof.Machine
end

