-- ==== Sys2Proof/Machine/TrunkCommands.lean ====
section
/-! DEFINITION. The trunk commands, the training bursts and the activity of the lines (R132 to R138). -/

namespace Sys2Proof.Machine

/-- TRUNK_TRAIN (R133, R135). -/
def execTrunkTrain (s : State) : Host.Outcome State Fault Refusal :=
  .next (s.served.takeCommand 0x0050 (fun s => s.trunkCommand .train))

/-- TRUNK_OFF (R134, R135). -/
def execTrunkOff (s : State) : Host.Outcome State Fault Refusal :=
  .next (s.served.takeCommand 0x0051 (fun s => s.trunkCommand .off))

/-! ## Training bursts (R136, R137) -/

/-- The microseconds from `now` to `due`; none where the due time has passed (assumption 24). -/
def untilDue (now due : TimeTag) : Nat := if (due - now).msb then 0 else (due - now).toNat

/-- A burst falls due: it waits for its line, or is passed over while another is waiting or on the line, and the next is
due 1000 µs later (R136). -/
def Trunk.burstFallsDue (t : Trunk) (due : TimeTag) : Trunk :=
  { t with
    burstDue := some (due + BitVec.ofNat 32 Config.burstInterval)
    burst :=
      match t.burst with
      | .none => .waiting
      | .waiting => .waiting
      | .sending left => .sending left }

/-- The next burst of a TRAINING interface falls due (R136). -/
def State.burstFallsDue (s : State) (t : TrunkId) : State :=
  match (s.trunk t).state, (s.trunk t).burstDue with
  | .training, some due =>
    let moved := s.elapse (untilDue s.time due)
    moved.setTrunk t ((moved.trunk t).burstFallsDue due)
  | _, _ => s

/-- TRAINING_BURST_DUE (R136). -/
def execTrainingBurstDue (t : TrunkId) (s : State) : Host.Outcome State Fault Refusal := .next (s.served.burstFallsDue t)

/-- Bit times of a burst: 72 and three payload words (R136). -/
def burstBits : Nat := frameBits 3

/-- Transmission of a burst begins now: it occupies the line for 120 bit times (R136). -/
def State.sendBurst (s : State) (t : TrunkId) : State :=
  let duration := s.bitTimes burstBits
  s.setTrunk t ({ (s.trunk t).transmit duration with burst := .sending duration })

/-- A waiting burst goes out as soon as the gap has passed and the line is quiet (R136). -/
def State.startBurst (s : State) (t : TrunkId) : State :=
  match (s.trunk t).burst with
  | .waiting => (s.elapse (max (s.gapLeft t) (s.quietLeft t))).sendBurst t
  | .sending _ => s
  | .none => s

/-- BURST_TRANSMIT_START (R136). -/
def execBurstTransmitStart (t : TrunkId) (s : State) : Host.Outcome State Fault Refusal := .next (s.served.startBurst t)

/-- The frame of a burst has gone out whole. -/
def Trunk.burstSent (t : Trunk) : Trunk := { t with burst := .none, lastFrame := frameOnLine burstWords }

/-- The fourth clean echo in a row makes the line READY (R137). -/
def Trunk.trained (t : Trunk) : Trunk :=
  { t with state := .ready, faults := 0, training := Config.cleanEchoesNeeded, timer := none, burstDue := none }

/-- The end of a burst's echo, judged now (R137). -/
def State.judgeBurst (s : State) (t : TrunkId) (echo : Echo) : State :=
  let sent := (s.trunk t).burstSent
  match echo with
  | .mismatch => s.setTrunk t { sent with training := 0 }
  | .clean =>
    if Config.cleanEchoesNeeded ≤ sent.training + 1 then
      (s.setTrunk t sent.trained).reportTrunk t .training .ready trunkCauseTrained
    else s.setTrunk t { sent with training := sent.training + 1 }

/-- The burst on the line ends with its echo (R137). -/
def State.endBurst (s : State) (t : TrunkId) (heard : List BitTime) : State :=
  match (s.trunk t).burst with
  | .sending left =>
    (s.elapse left).judgeBurst t (((s.elapse left).trunk t).judge (frameOnLine burstWords) heard)
  | .waiting => s
  | .none => s

/-- BURST_ECHO_END (R137). -/
def execBurstEchoEnd (t : TrunkId) (heard : List BitTime) (s : State) : Host.Outcome State Fault Refusal :=
  .next (s.served.endBurst t heard)

/-- The training timer runs out now: the interface enters FAILED (R138). -/
def State.failTraining (s : State) (t : TrunkId) : State :=
  (s.setTrunk t ((s.trunk t).leave .failed)).reportTrunk t .training .failed trunkCauseTimeout

/-- The training timer of a TRAINING interface expires (R138). -/
def State.trainingExpires (s : State) (t : TrunkId) : State :=
  match (s.trunk t).state, (s.trunk t).timer with
  | .training, some left => (s.elapse left).failTraining t
  | _, _ => s

/-- TRAINING_TIMER_EXPIRY (R138). -/
def execTrainingTimerExpiry (t : TrunkId) (s : State) : Host.Outcome State Fault Refusal := .next (s.served.trainingExpires t)

/-- LINE_ACTIVITY (R132). -/
def execLineActivity (heard : Heard) (s : State) : Host.Outcome State Fault Refusal :=
  .next (s.served.lineActivity heard.trunk heard.activity)

end Sys2Proof.Machine
end

