-- ==== Sys2Proof/Machine/Dispatch.lean ====
section
/-! DEFINITION. One arm per command. -/

namespace Sys2Proof.Machine

/-- The effect of a command on everything but the queue. -/
def exec (i : Instr) (s : State) : Host.Outcome State Fault Refusal :=
  match i with
  | .start => Sys2Proof.Machine.execStart s
  | .step => Sys2Proof.Machine.execStep s
  | .stopRound => Sys2Proof.Machine.execStopRound s
  | .stopSweep => Sys2Proof.Machine.execStopSweep s
  | .abort => Sys2Proof.Machine.execAbort s
  | .abortComplete => Sys2Proof.Machine.execAbortComplete s
  | .clearHalt => Sys2Proof.Machine.execClearHalt s
  | .engineReset => Sys2Proof.Machine.execEngineReset s
  | .engineResetComplete => Sys2Proof.Machine.execEngineResetComplete s
  | .switchPlan => Sys2Proof.Machine.execSwitchPlan s
  | .switchPlanCancel => Sys2Proof.Machine.execSwitchPlanCancel s
  | .validatePlan => Sys2Proof.Machine.execValidatePlan s
  | .planValidationDone => Sys2Proof.Machine.execPlanValidationDone s
  | .stationEnable => Sys2Proof.Machine.execStationEnable s
  | .stationDisable => Sys2Proof.Machine.execStationDisable s
  | .pointHold => Sys2Proof.Machine.execPointHold s
  | .pointRelease => Sys2Proof.Machine.execPointRelease s
  | .pointCommit => Sys2Proof.Machine.execPointCommit s
  | .pointCommandReadDone => Sys2Proof.Machine.execPointCommandReadDone s
  | .demandPost => Sys2Proof.Machine.execDemandPost s
  | .demandPostCheckDone => Sys2Proof.Machine.execDemandPostCheckDone s
  | .demandCancel => Sys2Proof.Machine.execDemandCancel s
  | .trunkTrain => Sys2Proof.Machine.execTrunkTrain s
  | .trunkOff => Sys2Proof.Machine.execTrunkOff s
  | .undefinedCommand code => Sys2Proof.Machine.execUndefinedCommand code s
  | .commandOverrun code => Sys2Proof.Machine.execCommandOverrun code s
  | .pinReset => Sys2Proof.Machine.execPinReset s
  | .resetRelease => Sys2Proof.Machine.execResetRelease s
  | .timeLowRead => Sys2Proof.Machine.execTimeLowRead s
  | .ringReadIndexWrite value => Sys2Proof.Machine.execRingReadIndexWrite value s
  | .ringGeometryWrite register value => Sys2Proof.Machine.execRingGeometryWrite register value s
  | .irqCauseClear value => Sys2Proof.Machine.execIrqCauseClear value s
  | .hostErrorClear value => Sys2Proof.Machine.execHostErrorClear value s
  | .stationConfigWrite word value => Sys2Proof.Machine.execStationConfigWrite word value s
  | .readOnlyWrite address value => Sys2Proof.Machine.execReadOnlyWrite address value s
  | .unmappedAccess address access => Sys2Proof.Machine.execUnmappedAccess address access s
  | .registerWrite address value => Sys2Proof.Machine.execRegisterWrite address value s
  | .hostSharedMemoryAccess address access => Sys2Proof.Machine.execHostSharedMemoryAccess address access s
  | .roundTimerExpiry => Sys2Proof.Machine.execRoundTimerExpiry s
  | .slotRecordReadDone => Sys2Proof.Machine.execSlotRecordReadDone s
  | .demandRecordReadDone => Sys2Proof.Machine.execDemandRecordReadDone s
  | .pauseEnd => Sys2Proof.Machine.execPauseEnd s
  | .callTransmitStart => Sys2Proof.Machine.execCallTransmitStart s
  | .occupancyGuardExpiry => Sys2Proof.Machine.execOccupancyGuardExpiry s
  | .callEchoEnd heard => Sys2Proof.Machine.execCallEchoEnd heard s
  | .answerWindowClose => Sys2Proof.Machine.execAnswerWindowClose s
  | .answerSyncDetected line => Sys2Proof.Machine.execAnswerSyncDetected line s
  | .answerReceived => Sys2Proof.Machine.execAnswerReceived s
  | .trainingBurstDue trunk => Sys2Proof.Machine.execTrainingBurstDue trunk s
  | .burstTransmitStart trunk => Sys2Proof.Machine.execBurstTransmitStart trunk s
  | .burstEchoEnd trunk heard => Sys2Proof.Machine.execBurstEchoEnd trunk heard s
  | .trainingTimerExpiry trunk => Sys2Proof.Machine.execTrainingTimerExpiry trunk s
  | .eventRecordPublished => Sys2Proof.Machine.execEventRecordPublished s
  | .lineActivity heard => Sys2Proof.Machine.execLineActivity heard s

end Sys2Proof.Machine
end

