-- ==== Sys2Proof/Machine/Step.lean ====
section
/-! DEFINITION. One step: the command at the front of the queue is taken, or one microsecond passes. -/

namespace Sys2Proof.Machine

/-- The command at the front of the queue acts on the state with the queue's rest; on an empty queue one microsecond of
the time base passes (assumption 2). -/
def step (s : State) : Host.Outcome State Fault Refusal :=
  match s.pending with
  | [] => .next s.tick
  | i :: rest => exec i { s with pending := rest }

/-- A command in front of the queue. -/
def State.enqueueFirst (s : State) (i : Instr) : State := { s with pending := i :: s.pending }

/-- The command that a word spells, put in front of the queue; no word of this table spells one (assumption 27). -/
def State.withFetchWord (s : State) (nbits w : Nat) : State :=
  match decodeTableWord nbits w with
  | some i => s.enqueueFirst i
  | none => s

end Sys2Proof.Machine
end

