-- ==== Sys2Proof/Safety.lean ====
section
/-! DEFINITION. What a safe run keeps: the relations between fields of the state that the manual promises, in the terms
the statements use. -/

namespace Sys2Proof.Safety

open Sys2Proof.Machine

/-! ## Acceptance -/

/-- The host port takes accesses and the Command Unit is READY (R173, R176). -/
abbrev Ready (s : State) : Prop := s.port.resetAsserted = false ∧ s.cmd.held = none

/-- The part after a command `code` has completed in one step on the state `t` (R174). -/
def completed (t : State) (code : Word) (result : ResultCode) (detail : Word) : State :=
  { t with
    cmd := { t.cmd with code, held := none, result, detail }
    port := { t.port with irqCause := t.port.irqCause ||| causeCommand } }

/-- The part after a command `code` has been taken on the state `t` and its owner goes on with `work` (R172, R173). -/
def busyWith (t : State) (code : Word) (work : CommandWork) : State :=
  { t with
    cmd := { t.cmd with code, held := some { args := t.cmd.args, work }, result := .none, detail := 0 } }

/-- The held command has begun to read records, and has got these words (R9, R110, R119). -/
def reading (t : State) (got : List Word) : State := { t with traffic := { t.traffic with command := some got } }

/-- The part with a command `code` just taken: no result yet (R173). -/
def taken (s : State) (code : Word) : State :=
  { s with cmd := { s.cmd with code, result := .none, detail := 0 } }

/-- The commands that are accesses of the host: writes to COMMAND and to the other registers, reads, and accesses to
shared memory. -/
def isHostAccess (c : Instr) : Bool :=
  match c with
  | .start | .step | .stopRound | .stopSweep | .abort | .clearHalt | .engineReset | .switchPlan | .switchPlanCancel
  | .validatePlan | .stationEnable | .stationDisable | .pointHold | .pointRelease | .pointCommit | .demandPost
  | .demandCancel | .trunkTrain | .trunkOff | .undefinedCommand _ | .commandOverrun _ | .timeLowRead
  | .ringReadIndexWrite _ | .ringGeometryWrite _ _ | .irqCauseClear _ | .hostErrorClear _ | .stationConfigWrite _ _
  | .readOnlyWrite _ _ | .unmappedAccess _ _ | .registerWrite _ _ | .hostSharedMemoryAccess _ _ => true
  | .abortComplete | .engineResetComplete | .planValidationDone | .pointCommandReadDone | .demandPostCheckDone
  | .pinReset | .resetRelease | .roundTimerExpiry | .slotRecordReadDone | .demandRecordReadDone | .pauseEnd
  | .callTransmitStart | .occupancyGuardExpiry | .callEchoEnd _ | .answerWindowClose | .answerSyncDetected _
  | .answerReceived | .trainingBurstDue _ | .burstTransmitStart _ | .burstEchoEnd _ _ | .trainingTimerExpiry _
  | .eventRecordPublished | .lineActivity _ => false

/-- The host writes the code of ENGINE RESET to COMMAND, whatever row the write is listed under: its address alone
decides (R163, R173; assumption 6). -/
def writesEngineReset (c : Instr) : Prop :=
  c ∈ [.engineReset, .undefinedCommand 0x0007, .commandOverrun 0x0007, .registerWrite 0x0004 0x0007,
    .readOnlyWrite 0x0004 0x0007, .unmappedAccess 0x0004 (.write 0x0007), .hostSharedMemoryAccess 0x0004 (.write 0x0007)]

/-- A host write to the register at `address` is stored as `settings` within `low` to `high`, and is otherwise ignored
with the host error `error` (R164); `s` is the state `s₀` after the grants before the write (assumption 7). -/
def storedWithin (s₀ s : State) (address : HostAddress) (value : Word) (low high : Nat) (error : HostError)
    (settings : Settings) : Prop :=
  (low ≤ value.toNat ∧ value.toNat ≤ high → exec (.registerWrite address value) s₀ = .next { s with set := settings }) ∧
    (value.toNat < low ∨ high < value.toNat →
      exec (.registerWrite address value) s₀ = .next (s.hostError error address))

/-- Nothing waits for the arbiter: no read of records goes on and no word of an event record is to be stored (R169). -/
abbrev nothingWaits (s : State) : Prop := s.engineAsks = false ∧ s.commandAsks = false ∧ s.writerAsks = false

/-- The place of a rotating requester in the cyclic order of R169. -/
def place (r : Requester) : Nat :=
  match r with
  | .engine => 0
  | .command => 1
  | .eventWriter => 2
  | .hostPort => 3

/-- How many rotating requesters stand between the one granted last and `r` in the cyclic order (R169). -/
def standingBefore (last r : Requester) : Nat := (place r + 3 - place last) % 4

/-- The part transmits on the trunk: a burst, or the call of the attempt in flight. -/
def transmits (s : State) (t : TrunkId) : Prop :=
  (∃ left, (s.trunk t).burst = .sending left) ∨
    ∃ x elapsed h0 h1 n payload, s.xfer = some x ∧ x.trunk = t ∧ x.phase = .sending elapsed h0 h1 n payload

/-- A trunk on whose line the part's own frame has just been cut off: 16 µs, which are 8 bit times of the slowest rate,
have to pass for the gap, and after another talker's frame, if one is on the line, for the quiet (R132; assumption
23). -/
def silencedNow (t : Trunk) : Trunk := { t with gapHold := 16, quietHold := t.frameLeft + 16 }

/-- The gate lets the slot run: it is NONE, or its bit in GATES matches the sense (R8). -/
def gateRuns (s : State) (slot : SlotRecord) : Prop :=
  ∀ g, slot.gate = some g → s.set.gates.getLsbD g.gate = g.runIfSet

/-- What an attempt that begins on a trunk does first: it waits for the gap, or, where that has passed, makes its
occupancy check and samples the guard; a guard of 0 has then run out on a line that is not quiet (R55, R56). -/
def firstPhase (s : State) (trunk : TrunkId) : AttemptPhase :=
  if s.gapLeft trunk = 0 then
    .occupancy s.set.occupancyGuard.toNat (decide (s.set.occupancyGuard.toNat = 0 ∧ 0 < s.quietLeft trunk))
  else .gap

/-- The first attempt of a transfer handed over: the slot has gone over to it, and the attempt waits for the gap or,
where that has passed, makes its occupancy check (R50, R51, R56). -/
def handedOver (s : State) (x : Transfer) (trunk : TrunkId) : State :=
  { s with
    eng := { s.eng with phase := .transferring }
    xfer := some
      { x with
        attempts := 1, trunk, outcome := .none
        phase := firstPhase s trunk } }

/-- The trunk of a first attempt: the preferred one if it is READY, else the other (R52). -/
def firstOf (s : State) (preferred : TrunkId) : TrunkId :=
  if (s.trunk preferred).state = .ready then preferred else otherTrunk preferred

/-- No trunk command is held for an attempt on the trunk (R135). -/
def noneHeldFor (s : State) (t : TrunkId) : Prop := ∀ h command, s.cmd.held = some h → h.work ≠ .trunkHeld command t

/-- A slot's round is still to be run: the round timer has not expired under TRUNCATE or HALT (R66). -/
def goesOn (s : State) : Prop := s.eng.timer ≠ .expired ∨ s.policy = .late

/-- The engine takes a state and a stop point and writes ENGINE STATE with the given detail (R31). -/
def engineMoves (s : State) (state : EngineState) (stop : StopPoint) (detail : Word) : State :=
  ({ s with eng := { s.eng with state, stop } }).report .engineState none 0 .none (BitVec.ofNat 16 s.eng.slot) detail

/-- A sweep begins: the counter advances, NO TRUNK may be reported again, and round 0 begins (R25, R37, R38). -/
def sweepBegins (s : State) : State :=
  ({ s with eng := { s.eng with sweep := s.eng.sweep + 1, noTrunkReported := false } }).beginRound 0

/-- A pending switch, if there is one, is applied and PLAN SWITCHED written (R18, R19). -/
def switched (s : State) : State :=
  match s.eng.pending with
  | none => s
  | some g =>
    ({ s with eng := { s.eng with pending := none, active := some g } }).report .planSwitched none 0 .none 0
      (BitVec.ofNat 16 (bankField (s.eng.active.map (fun a : Geometry => a.bank)) * 16 + bankField (some g.bank)))

/-- The part in the one step of ENGINE RESET, but for the lines and the Command Unit (R46, R97, R116, R118, R156,
R161). -/
def runTimeReset (s : State) : State :=
  { s with
    eng := { State.reset.eng with active := s.eng.active }
    xfer := none
    stations := s.stations.map (fun r =>
      if r.state = .off then r
      else
        { r with
          state := .absent, failureRun := 0, confirmCount := 0, probeCountdown := 0, nextToggle := false
          currentTrunk := r.preferredTrunk, lastCondition := 0, mismatch := false })
    points := State.reset.points
    demands := []
    ring := { s.ring with readIndex := 0, writeIndex := 0, awaiting := [], dropping := false, dropped := 0 }
    port := { s.port with irqCause := s.port.irqCause &&& causeCommand }
    traffic := { s.traffic with engine := none, stored := 0 } }

/-- A TRANSFER slot or an OPEN slot with a demand would be handed over as this record (R50), before its first attempt. -/
def transferRecord (kind : TransferKind) (demandTag : Option (BitVec 8)) (point : BitVec 8) (values : Option PointRecord)
    (station allowed : Nat) (policy : RetryPolicy) (toggle : Bool) : Transfer :=
  { kind, demandTag, point, values, station, allowed, policy, toggle, attempts := 0, trunk := .a, outcome := .none
    broadcastSent := false, heardIdentity := 0, reportedToggle := false, detached := false, phase := .gap }

/-- The point's entry is marked IN FLIGHT (R103). -/
def inFlight (s : State) (p : BitVec 8) : State := s.setPoint p { s.point p with inFlight := true }

/-- A trunk is READY. -/
abbrev someReady (s : State) : Prop := s.trunkA.state = .ready ∨ s.trunkB.state = .ready

/-- No trunk is READY and one is TRAINING (R44). -/
abbrev onlyTraining (s : State) : Prop := ¬someReady s ∧ (s.trunkA.state = .training ∨ s.trunkB.state = .training)

/-- Every trunk is OFF or FAILED (R45). -/
abbrev noneUsable (s : State) : Prop := ¬someReady s ∧ ¬(s.trunkA.state = .training ∨ s.trunkB.state = .training)

/-- The NO TRUNK event, at most once in a sweep (R44). -/
def noTrunkTold (s : State) : State :=
  if s.eng.noTrunkReported then s
  else
    ({ s with eng := { s.eng with noTrunkReported := true } }).report .noTrunk none 0 .noTrunk
      (BitVec.ofNat 16 s.eng.slot) 0

/-- The demand being served returns to WAITING in its place (R124). -/
def waitingAgain (s : State) : State := { s with demands := s.demands.map (fun d => { d with inFlight := false }) }

/-- A further attempt begins on a trunk (R51, R56). -/
def attemptOn (s : State) (x : Transfer) (trunk : TrunkId) : State :=
  { s with
    xfer := some
      { x with
        attempts := x.attempts + 1, trunk, outcome := .none
        phase := firstPhase s trunk } }

/-- A station's record is replaced, and a change of its state is reported with the transfer's trunk, station, outcome
and point (R96). -/
def stationMoves (s : State) (x : Transfer) (outcome : OutcomeCode) (r : Station) (cause : Nat) : State :=
  if (s.station x.station).state = r.state then s.setStation x.station r
  else
    (s.setStation x.station r).report .stationState (some x.trunk) x.station outcome (x.point.setWidth 16)
      (BitVec.ofNat 16 ((s.station x.station).state.code * 4096 + r.state.code * 256 + cause))

/-- The trunk of a later attempt (Table 3-2). -/
def laterTrunk (s : State) (policy : RetryPolicy) (previous : TrunkId) : Option TrunkId :=
  let preferred := if policy = .same then previous else otherTrunk previous
  if (s.trunk preferred).state = .ready then some preferred
  else if (s.trunk (otherTrunk preferred)).state = .ready then some (otherTrunk preferred)
  else none

/-! ## The checks of a plan, by the tables (R10 to R12) -/

/-- A check of the tables: its code, the index its detail carries, and whether it fails. -/
structure Check where
  code : Nat
  index : Nat
  fails : Bool
deriving DecidableEq, Repr

/-- The first check that fails, in the order of the list (R9, R21). -/
def firstFailure (checks : List Check) : Option CheckFailure :=
  (checks.find? (fun c => c.fails)).map (fun c => { code := c.code, index := c.index })

/-- Word `i` of the bank at `base` (Table 1-4). -/
def bankWord (m : Ram) (base i : Nat) : Nat := (m.read ((base + i) % 16384)).toNat

/-- Table 1-7, codes 1 to 5. -/
def headerChecks (w : Nat → Nat) : List Check :=
  [ { code := 1, index := 0, fails := decide (w 0 = 0 ∨ 64 < w 0) }, { code := 2, index := 0, fails := decide (w 1 < 10) },
    { code := 3, index := 0, fails := decide (w 2 < 4 ∨ 255 < w 2) },
    { code := 4, index := 0, fails := decide (w 3 ≠ 1 ∧ w 3 ≠ 2 ∧ w 3 ≠ 3) },
    { code := 5, index := 0, fails := decide (512 < w 4) } ]

/-- Slot count of round `r` in the directory: bits 15 to 9 of its word (R182). -/
def roundSlots (w : Nat → Nat) (r : Nat) : Nat := w (8 + r) / 512

/-- First slot index of round `r`: bits 8 to 0 of its word (R182). -/
def roundFirst (w : Nat → Nat) (r : Nat) : Nat := w (8 + r) % 512

/-- The slots of the rounds before round `r`. -/
def slotsBefore (w : Nat → Nat) (r : Nat) : Nat := ((List.range r).map (roundSlots w)).sum

/-- Table 1-7, codes 6 to 8. -/
def directoryChecks (w : Nat → Nat) : List Check :=
  (List.range (w 0)).flatMap (fun r =>
    [ { code := 6, index := r, fails := decide (64 < roundSlots w r) },
      { code := 7, index := r, fails := decide (1 ≤ roundSlots w r ∧ roundFirst w r ≠ slotsBefore w r) } ]) ++
  [{ code := 8, index := 0, fails := decide (slotsBefore w (w 0) ≠ w 4) }]

/-- The kind field of slot record `i`: 1 TRANSFER, 2 OPEN, 3 SYNC, 4 PAUSE (Table 10-7). -/
def slotKind (w : Nat → Nat) (i : Nat) : Nat := w (72 + 2 * i) % 8

/-- Table 1-8 for slot record `i`. -/
def slotChecks (w : Nat → Nat) (i : Nat) : List Check :=
  let w0 := w (72 + 2 * i)
  let gate := w0 / 16 % 16
  let sense := w0 / 256 % 4
  let policy := w0 / 4096 % 4
  [ { code := 9, index := i, fails := decide (slotKind w i = 0 ∨ 4 < slotKind w i) },
    { code := 10, index := i, fails := decide ((1 ≤ gate ∧ gate < 8) ∨ (8 ≤ gate ∧ sense ≠ 1 ∧ sense ≠ 2)) },
    { code := 11, index := i, fails := decide (slotKind w i = 1 ∧ policy ≠ 1 ∧ policy ≠ 2) },
    { code := 12, index := i, fails := decide (slotKind w i = 4 ∧ w (72 + 2 * i + 1) = 0) } ]

/-- Table 1-9, codes 14 to 18, for the record at `base + 8 × p`. -/
def recordChecks (m : Ram) (base p : Nat) : List Check :=
  let w := bankWord m (base + 8 * p)
  let function := w 0 % 8
  let station := w 0 / 256 % 64
  let receives := function = 1 ∨ function = 3
  let sends := function = 2 ∨ function = 3
  let inLength := w 2 / 256 % 64
  let outLength := w 2 % 64
  [ { code := 14, index := p, fails := decide (function ≠ 1 ∧ function ≠ 2 ∧ function ≠ 3) },
    { code := 15, index := p, fails := decide (station = 0) },
    { code := 16, index := p, fails := decide (station = 63 ∧ function ≠ 2) },
    { code := 17, index := p
      fails := decide ((receives ∧ (inLength = 0 ∨ 32 < inLength)) ∨ (sends ∧ (outLength = 0 ∨ 32 < outLength))) },
    { code := 18, index := p
      fails := decide ((receives ∧ (16384 < w 3 + inLength ∨ 16384 < w 4 + inLength)) ∨
        (sends ∧ (16384 < w 5 + outLength ∨ 16384 < w 6 + outLength))) } ]

/-- Table 1-9 for the point `p` named by slot `i`: code 13 carries the slot, the others the point. -/
def pointChecks (c : Settings) (m : Ram) (i p : Nat) : List Check :=
  { code := 13, index := i, fails := decide (c.pointCount.toNat ≤ p) } :: recordChecks m c.pointBase.toNat p

/-- The point that TRANSFER slot `i` names: bits 7 to 0 of its second word (Table 10-7). -/
def slotPoint (w : Nat → Nat) (i : Nat) : Nat := w (72 + 2 * i + 1) % 256

/-- The point checks of slot `i`, if it is a TRANSFER slot (R12). -/
def slotPointChecks (c : Settings) (m : Ram) (w : Nat → Nat) (i : Nat) : List Check :=
  if slotKind w i = 1 then pointChecks c m i (slotPoint w i) else []

/-- The checks of a bank in the order of validation (R9). -/
def bankChecks (c : Settings) (m : Ram) (base : Nat) : List Check :=
  let w := bankWord m base
  headerChecks w ++ directoryChecks w ++ (List.range (w 4)).flatMap (slotChecks w) ++
    (List.range (w 4)).flatMap (slotPointChecks c m w)

/-- The policy that a legal code names (Table 10-6). -/
def policyNamed (code : Nat) : OverrunPolicy := if code = 1 then .late else if code = 2 then .truncate else .halt

/-- The geometry that a bank holds (R18, R182). -/
def bankGeometry (m : Ram) (bank : Bank) (base : Nat) : Geometry :=
  let w := bankWord m base
  { bank, base, roundCount := w 0, roundPeriod := w 1, answerWindow := w 2, policy := policyNamed (w 3), slotTotal := w 4
    directory := (List.range (w 0)).map (fun r => { first := roundFirst w r, count := roundSlots w r }) }

/-- The slot record that legal words hold (R4, R182). -/
def slotHeld (w : Nat → Nat) (i : Nat) : SlotRecord :=
  let w0 := w (72 + 2 * i)
  let w1 := w (72 + 2 * i + 1)
  { gate := if w0 / 16 % 16 = 0 then none else some { gate := w0 / 16 % 16 - 8, runIfSet := decide (w0 / 256 % 4 = 1) }
    work :=
      if slotKind w i = 1 then
        .transfer (BitVec.ofNat 8 w1) (w0 / 1024 % 4) (if w0 / 4096 % 4 = 1 then .same else .alternate)
      else if slotKind w i = 2 then .openSlot
      else if slotKind w i = 3 then .sync
      else .pause w1 }

/-- The point record that legal words hold, with 0 in the fields that its function does not use (R100, R183). -/
def pointHeld (m : Ram) (base p : Nat) : PointRecord :=
  let w := bankWord m (base + 8 * p)
  let receives (n : Nat) := if w 0 % 8 = 2 then 0 else n
  let sends (n : Nat) := if w 0 % 8 = 1 then 0 else n
  { function := if w 0 % 8 = 1 then .read else if w 0 % 8 = 2 then .write else .exchange
    station := w 0 / 256 % 64, report := (w 1).testBit 0, notify := (w 1).testBit 1, sendOnCommit := (w 1).testBit 2
    objectIndex := BitVec.ofNat 8 (w 1 / 256), outLength := sends (w 2 % 64), inLength := receives (w 2 / 256 % 64)
    inPage0 := receives (w 3), inPage1 := receives (w 4), outPage0 := sends (w 5), outPage1 := sends (w 6) }

/-! ## Invariants -/

/-- The RAM keeps its canonical form, inside 16,384 words (assumption 1). -/
abbrev RamCanonical (s : State) : Prop := s.ram.wf = true

/-- The event ring (R147, R149, R150, R151, R154, R157). -/
structure RingInv (r : Ring) : Prop where
  sizeLow : 4 ≤ r.size.toNat
  sizeHigh : r.size.toNat ≤ 10
  fits : r.base.toNat + 8 * r.entries ≤ 16384
  readIndexInRing : r.readIndex < r.entries
  writeIndexInRing : r.writeIndex < r.entries
  reservedAtMost : r.reserved ≤ r.entries - 1
  roomUnlessDropping : r.dropping = false → r.reserved ≤ r.entries - 2
  droppedOnlyWhileDropping : r.dropping = false ↔ r.dropped = 0
  droppedSaturates : r.dropped ≤ 65535
  watermarkLow : 1 ≤ r.watermark.toNat
  watermarkHigh : r.watermark.toNat ≤ r.entries - 1

/-- A trunk interface (R131, R136, R137). -/
structure TrunkInv (t : Trunk) : Prop where
  timerInTraining : t.state = .training ↔ t.timer.isSome = true
  burstDueInTraining : t.state = .training ↔ t.burstDue.isSome = true
  burstInTraining : t.burst ≠ .none → t.state = .training
  trainingAtMost : t.training ≤ 4
  readyIsTrained : t.state = .ready → t.training = 4

/-- Both trunk interfaces. -/
structure TrunksInv (s : State) : Prop where
  a : TrunkInv s.trunkA
  b : TrunkInv s.trunkB

/-- A station record (R77, Table 4-1): the failure run counts only while the station is called, the confirm count only
while it is CONFIRMING, and a SUSPECT station has failed. -/
structure StationInv (r : Station) : Prop where
  failureRunAtMost : r.failureRun ≤ 15
  failureRunWhileCalled : r.failureRun ≠ 0 → r.state.called = true
  confirmCountWhileConfirming : r.confirmCount ≠ 0 → r.state = .confirming
  suspectHasFailed : r.state = .suspect → 1 ≤ r.failureRun

/-- Every station record. -/
def StationsInv (s : State) : Prop := ∀ n, StationInv (s.station n)

/-- PENDING is set only while HOLD is set (R101). -/
def PointsInv (s : State) : Prop := ∀ p, (s.point p).pending = true → (s.point p).hold = true

/-- The registers that hold a setting stay in their ranges (R1, R42, R55, R79, R81, R99, R102, R142, R143). -/
structure SettingsInv (c : Settings) : Prop where
  planABase : c.planABase.toNat ≤ 15288
  planBBase : c.planBBase.toNat ≤ 15288
  demandRetries : c.demandRetries.toNat ≤ 3
  occupancyGuard : c.occupancyGuard.toNat ≤ 255
  pointCountLow : 1 ≤ c.pointCount.toNat
  pointCountHigh : c.pointCount.toNat ≤ 256
  pointsInRam : c.pointBase.toNat + 8 * c.pointCount.toNat ≤ 16384
  pointSelect : c.pointSelect.toNat ≤ 255
  stationSelectLow : 1 ≤ c.stationSelect.toNat
  stationSelectHigh : c.stationSelect.toNat ≤ 62
  suspectAfterLow : 1 ≤ c.suspectAfter.toNat
  suspectAfterHigh : c.suspectAfter.toNat ≤ 15
  absentAfterLow : 1 ≤ c.absentAfter.toNat
  absentAfterHigh : c.absentAfter.toNat ≤ 15
  confirmCountLow : 1 ≤ c.confirmCount.toNat
  confirmCountHigh : c.confirmCount.toNat ≤ 7
  probeIntervalLow : 1 ≤ c.probeInterval.toNat
  probeIntervalHigh : c.probeInterval.toNat ≤ 255
  trunkRate : c.trunkRate.toNat ≤ 2
  trainingTimeoutLow : 1 ≤ c.trainingTimeout.toNat
  trainingTimeoutHigh : c.trainingTimeout.toNat ≤ 255
  trunkFaultLimitLow : 1 ≤ c.trunkFaultLimit.toNat
  trunkFaultLimitHigh : c.trunkFaultLimit.toNat ≤ 7

/-- The engine against its slot and its transfer (R23, R28, R31, R49): stop point, halt cause and the slot in progress
go with the engine state, and a transfer is in progress exactly in a slot that has handed one over. -/
structure EngineInv (s : State) : Prop where
  haltedHasCause : s.eng.state = .halted ↔ s.eng.halt ≠ .none
  drainingHasStop : s.eng.state = .draining ↔ s.eng.stop ≠ .none
  restingHasNoSlot : s.eng.state = .idle ∨ s.eng.state = .halted → s.eng.phase = .none
  restingTimerStopped : s.eng.state = .idle ∨ s.eng.state = .halted ↔ s.eng.timer = .stopped
  restingNothingPending : s.eng.state = .idle ∨ s.eng.state = .halted → s.eng.pending = none
  runningHasPlan : s.eng.state = .running ∨ s.eng.state = .draining → s.eng.active.isSome = true
  transferInItsSlot : s.eng.phase = .transferring ↔ s.xfer.isSome = true

/-- A demand is being served: its point record is being read, or its transfer is in progress (R118, R123). -/
def serving (s : State) : Prop :=
  (∃ retries, s.eng.phase = .demandReading retries) ∨ ∃ x, s.xfer = some x ∧ x.demandTag.isSome = true

/-- The demand list (R118, R121): at most eight demands, no two for one point or with one tag, HIGH before NORMAL, at
most one IN FLIGHT. -/
structure DemandListInv (list : List Demand) : Prop where
  atMostEight : list.length ≤ 8
  pointsDiffer : (list.map (·.point)).Nodup
  tagsDiffer : (list.map (·.tag)).Nodup
  highFirst : list.Pairwise (fun d e => e.high = true → d.high = true)
  oneInFlight : (list.filter (·.inFlight)).length ≤ 1

/-- The demand queue with the engine that serves it (R118, R123, R124). -/
structure DemandInv (s : State) : Prop where
  engine : EngineInv s
  list : DemandListInv s.demands
  inFlightIsServed : s.demandInFlight.isSome = true → serving s

/-- An attempt in flight is on a READY trunk (R52, R53, R139). -/
structure AttemptInv (s : State) : Prop where
  trunks : TrunksInv s
  onReady : ∀ x, s.xfer = some x → s.ready x.trunk = true

/-- A held command shows no result yet (R171, R173, R174). -/
def CommandInv (s : State) : Prop := s.cmd.held.isSome = true → s.cmd.result = .none ∧ s.cmd.detail = 0

end Sys2Proof.Safety
end

