-- ==== Sys2Proof/WellFormed.lean ====
section
/-! DEFINITION. Which commands are of the kind their row of the table names. `exec` has an effect for the others too:
a host bus cycle acts by its address, whatever row it is written under (assumption 6). -/

namespace Sys2Proof

/-- The command is of its row's kind. -/
def Instr.wellFormed (i : Instr) : Bool :=
  match i with
  | .undefinedCommand code => !Machine.commandDefined code
  | .readOnlyWrite address _ =>
    match Machine.registerAt address.toNat with
    | some r => r.readOnly
    | none => false
  | .unmappedAccess address _ => Machine.unmapped address
  | .registerWrite address _ =>
    match Machine.registerAt address.toNat with
    | some r => !r.readOnly && !r.hasOwnWrite
    | none => false
  | .hostSharedMemoryAccess address _ => Machine.sharedMemoryStart ≤ address.toNat
  | .start | .step | .stopRound | .stopSweep | .abort | .abortComplete | .clearHalt | .engineReset
  | .engineResetComplete | .switchPlan | .switchPlanCancel | .validatePlan | .planValidationDone | .stationEnable
  | .stationDisable | .pointHold | .pointRelease | .pointCommit | .pointCommandReadDone | .demandPost
  | .demandPostCheckDone | .demandCancel | .trunkTrain | .trunkOff | .commandOverrun _ | .pinReset | .resetRelease
  | .timeLowRead | .ringReadIndexWrite _ | .ringGeometryWrite _ _ | .irqCauseClear _ | .hostErrorClear _
  | .stationConfigWrite _ _ | .roundTimerExpiry | .slotRecordReadDone | .demandRecordReadDone | .pauseEnd
  | .callTransmitStart | .occupancyGuardExpiry | .callEchoEnd _ | .answerWindowClose
  | .answerSyncDetected _ | .answerReceived
  | .trainingBurstDue _ | .burstTransmitStart _ | .burstEchoEnd _ _ | .trainingTimerExpiry _ | .eventRecordPublished
  | .lineActivity _ => true

end Sys2Proof
end

