-- ==== Sys2Proof/Certificates/Slice0/Obligations.lean ====
section
/-! DEFINITION. The statements for the provers. Each is about every state and every operand unless its hypotheses say
otherwise; an equation `exec c s₀ = .next …` over a whole state is also the command's frame. `s₀` is the state before
the grants that the arbiter makes in the stretch of time before the command, `s = s₀.served` the one after them: they
move the RAM, the traffic and the rotation alone (O5), and how many they are is free (assumption 7). -/

open Sys2Proof Sys2Proof.Machine Sys2Proof.Safety

/-! ## The queue, time and reset -/

/-- A step with a command at the front of the queue is that command's effect on the state with the queue's rest. -/
def Obligations.QueueFrontIsExecuted : Prop :=
  ∀ (c : Instr) (rest : List Instr) (s : State), s.pending = c :: rest → step s = exec c { s with pending := rest }

/-- The passing of time. MODEL'S CHOICE (assumption 2): on an empty queue a step is one microsecond of the time base
of R48, after the grants before it (assumption 7); while RESET is asserted nothing moves (assumption 9). Time moves
the round timer, a pause, the reads' own count, both interfaces' timers, the bounds of R29 and the attempt in flight,
and nothing else; the RAM, the traffic and the rotation only where words of a call are read or of an answer stored
(R57, R61). A frame that ends on a line in that time begins its gap anew (R132, assumption 23). -/
def Obligations.IdleStepIsOneMicrosecond : Prop :=
  (∀ s : State, s.pending = [] →
    (s.port.resetAsserted = true → step s = .next s) ∧
    (s.port.resetAsserted = false → step s = .next (s.served.elapse 1))) ∧
  (∀ (s t : State) (n : Nat), t = s.elapse n →
    t = { s with
          time := s.time + BitVec.ofNat 32 n, eng := t.eng, cmd := t.cmd, xfer := t.xfer, trunkA := t.trunkA
          trunkB := t.trunkB, ram := t.ram, traffic := t.traffic, lastGrant := t.lastGrant } ∧
    t.eng = { s.eng with timer := t.eng.timer, phase := t.eng.phase } ∧
    (∀ left, s.eng.timer = .running left → t.eng.timer = .running (left - n)) ∧
    ((∀ left, s.eng.timer ≠ .running left) → t.eng.timer = s.eng.timer) ∧
    (∀ elapsed, s.eng.phase = .reading elapsed → t.eng.phase = .reading (elapsed + n)) ∧
    (∀ left, s.eng.phase = .pausing left → t.eng.phase = .pausing (left - n)) ∧
    ((∀ k, s.eng.phase ≠ .reading k ∧ s.eng.phase ≠ .pausing k) → t.eng.phase = s.eng.phase) ∧
    (∀ k : TrunkId, t.trunk k =
      { s.trunk k with
        timer := (s.trunk k).timer.map (· - n), burst := (t.trunk k).burst, gapHold := (t.trunk k).gapHold
        quietHold := (s.trunk k).quietHold - n, frameLeft := (s.trunk k).frameLeft - n } ∧
      ((s.trunk k).frameLeft = 0 ∨ n < (s.trunk k).frameLeft → (t.trunk k).gapHold = (s.trunk k).gapHold - n) ∧
      (0 < (s.trunk k).frameLeft → (s.trunk k).frameLeft ≤ n →
        (t.trunk k).gapHold = max ((s.trunk k).gapHold - n) (16 - (n - (s.trunk k).frameLeft))) ∧
      (∀ left, (s.trunk k).burst = .sending left → (t.trunk k).burst = .sending (left - n)) ∧
      ((∀ left, (s.trunk k).burst ≠ .sending left) → (t.trunk k).burst = (s.trunk k).burst)) ∧
    t.cmd = { s.cmd with held := t.cmd.held } ∧
    (∀ args k left, s.cmd.held = some { args, work := .abortWait k left } →
      t.cmd.held = some { args, work := .abortWait k (left - n) }) ∧
    (∀ args k left, s.cmd.held = some { args, work := .resetWait k left } →
      t.cmd.held = some { args, work := .resetWait k (left - n) }) ∧
    ((∀ args k left, s.cmd.held ≠ some { args, work := .abortWait k left } ∧
        s.cmd.held ≠ some { args, work := .resetWait k left }) → t.cmd.held = s.cmd.held) ∧
    (s.xfer = none → t.xfer = none) ∧
    ((∀ x, s.xfer = some x → (∀ a b c d e, x.phase ≠ .sending a b c d e) ∧
        ∀ a f page d, x.phase ≠ .receiving a f page d) →
      t.ram = s.ram ∧ t.traffic = s.traffic ∧ t.lastGrant = s.lastGrant))

/-- In every state every row of the table answers a next state, and leaves the queue of the commands that wait as it
was. That an event which the state cannot give rise to changes nothing is log entry 4, and the queue is the model's
own (log entry 30). -/
def Obligations.EveryCommandRunsAndKeepsTheQueue : Prop :=
  ∀ (c : Instr) (s : State), ∃ t, exec c s = .next t ∧ t.pending = s.pending

/-- PIN_RESET and RESET_RELEASE (R176, R48, R131, R116, R118, R156, R161, R169, R171): every register and block takes
its reset value and the RAM keeps its contents. The arbiter's rotation stands at the host port, so that the engine
comes first. Each line keeps what its receiver last heard and still hears, and a transmission of the part ends where it
stands (assumptions 9 and 23). No host access is taken while RESET is asserted, and INT is released. Right after reset
every register reads the value of Table 11-1. -/
def Obligations.PinResetClearsAllButMemory : Prop :=
  (∀ (s₀ s : State) (gap quiet : TrunkId → Nat), s = s₀.served →
    (∀ k, (transmits s k → gap k = 16 ∧ quiet k = (s.trunk k).frameLeft + 16) ∧
      (¬transmits s k → gap k = (s.trunk k).gapHold ∧ quiet k = (s.trunk k).quietHold)) →
    ∃ t, exec .pinReset s₀ = .next t ∧ t.port.resetAsserted = true ∧ t.port.intLow = false ∧
      t.lastGrant = .hostPort ∧
      t = { State.reset with
            pending := s.pending, ram := s.ram
            port := { State.reset.port with resetAsserted := true }
            trunkA :=
              { State.reset.trunkA with gapHold := gap .a, quietHold := quiet .a, frameLeft := s.trunkA.frameLeft }
            trunkB :=
              { State.reset.trunkB with gapHold := gap .b, quietHold := quiet .b, frameLeft := s.trunkB.frameLeft }
            traffic := { State.reset.traffic with token := s.traffic.token } }) ∧
  (∀ s : State, exec .resetRelease s = .next { s with port := { s.port with resetAsserted := false } }) ∧
  (∀ (c : Instr) (s : State), isHostAccess c = true → s.port.resetAsserted = true → exec c s = .next s) ∧
  ∀ p ∈ ([(0x00, 0x0062), (0x01, 0x0001), (0x04, 0), (0x05, 0), (0x06, 0), (0x07, 0), (0x08, 0), (0x09, 0), (0x0A, 0),
      (0x0B, 0), (0x10, 0), (0x11, 0), (0x12, 0), (0x13, 0), (0x14, 0), (0x15, 0), (0x20, 0), (0x21, 0), (0x22, 0),
      (0x23, 0), (0x24, 0), (0x25, 0), (0x26, 1), (0x30, 0), (0x31, 0), (0x32, 20), (0x33, 0), (0x34, 256), (0x35, 0),
      (0x38, 0), (0x39, 0), (0x3A, 0), (0x3B, 0), (0x3C, 0), (0x40, 1), (0x41, 2), (0x42, 4), (0x43, 3), (0x44, 8),
      (0x48, 0), (0x49, 0), (0x4A, 0), (0x4B, 0), (0x4C, 0), (0x4D, 0), (0x50, 0), (0x60, 1), (0x61, 10), (0x62, 3),
      (0x63, 0), (0x64, 0), (0x70, 0), (0x71, 4), (0x72, 0), (0x73, 0), (0x74, 0), (0x75, 0), (0x76, 8),
      (0x77, 0x9EFA)] : List (HostAddress × Word)),
    (State.reset.hostAccess p.1 .read).port.readData = p.2

/-! ## The host port -/

/-- HOST_SHARED_MEMORY_ACCESS and the arbiter (R163, R166, R169, R170). An address from 4000h up reaches the RAM word
at the address less 4000h, once the host port has been granted: a read returns the word and a write stores it, raising
no host error; every other word and every other block stays. A requester is granted after at most one access of each
other; where nothing else waits, at once. The choice is the line path first, then the waiting requester that stands
next after the one granted last in the cyclic order. Grants move nothing but the RAM, the traffic and the rotation.
That a requester with more to do asks at once, and that the host port waits only within the host's own command, is
assumption 13. -/
def Obligations.SharedMemoryAccessReachesOneWord : Prop :=
  (∀ (address : HostAddress) (s₀ s u : State), s = s₀.served → s.port.resetAsserted = false →
    0x4000 ≤ address.toNat → u = s.serve .hostPort →
    exec (.hostSharedMemoryAccess address .read) s₀ =
      .next { u with port := { u.port with readData := u.ram.read (address.toNat - 0x4000) } } ∧
    ∀ value : Word, ∃ t,
      exec (.hostSharedMemoryAccess address (.write value)) s₀ = .next t ∧ t = { u with ram := t.ram } ∧
        (RamCanonical u → t.ram.read (address.toNat - 0x4000) = value ∧
          ∀ a, a ≠ address.toNat - 0x4000 → t.ram.read a = u.ram.read a)) ∧
  (∀ (s : State) (r : Requester), ∃ before : List Requester, before.Nodup ∧ r ∉ before ∧
    s.serve r = (before.foldl State.grant s).grant r) ∧
  (∀ (s : State) (r : Requester), nothingWaits s → s.serve r = s.grant r) ∧
  (∀ (s : State) (r : Requester),
    s.grant r = { s with ram := (s.grant r).ram, traffic := (s.grant r).traffic, lastGrant := r }) ∧
  (∀ s : State, s.grant .hostPort = { s with lastGrant := .hostPort }) ∧
  (∀ s : State, s.served = { s with ram := s.served.ram, traffic := s.served.traffic, lastGrant := s.served.lastGrant }) ∧
  (∀ s : State, s.port.resetAsserted = true ∨ nothingWaits s → s.served = s) ∧
  (∀ (w : Waiting) (last : Requester), arbitrate true w last = some .line) ∧
  (∀ (w : Waiting) (last r : Requester), arbitrate false w last = some (.rotating r) ↔
    w.asks r = true ∧ ∀ q, w.asks q = true → standingBefore last r ≤ standingBefore last q) ∧
  (∀ (w : Waiting) (last : Requester), arbitrate false w last = none ↔ ∀ q, w.asks q = false)

/-- UNMAPPED_ACCESS (R165): a read returns 0, a write is ignored, and both record HOST ERROR UNMAPPED with the
address. -/
def Obligations.UnmappedAccessReachesNothing : Prop :=
  ∀ (address : HostAddress) (s₀ s : State), s = s₀.served → s.port.resetAsserted = false →
    address.toNat < 0x4000 → registerAt address.toNat = none →
    exec (.unmappedAccess address .read) s₀ =
      .next ({ s with port := { s.port with readData := 0 } }.hostError .unmapped address) ∧
    ∀ value : Word, exec (.unmappedAccess address (.write value)) s₀ = .next (s.hostError .unmapped address)

/-- The host error latch (R162) and HOST_ERROR_CLEAR: an empty latch records code and address and sets the HOST ERROR
cause, a full one nothing; a write of any value empties it and clears the cause, also while the latch was empty. -/
def Obligations.FirstHostErrorIsLatchedUntilCleared : Prop :=
  (∀ (s : State) (code : HostError) (address : HostAddress),
    (s.port.errorCode = .none →
      s.hostError code address =
        { s with
          port :=
            { s.port with errorCode := code, errorAddress := address, irqCause := s.port.irqCause ||| 0b10000 } }) ∧
    (s.port.errorCode ≠ .none → s.hostError code address = s)) ∧
  (∀ (value : Word) (s₀ s : State), s = s₀.served → s.port.resetAsserted = false →
    exec (.hostErrorClear value) s₀ =
      .next { s with
        port :=
          { s.port with errorCode := .none, errorAddress := 0, irqCause := s.port.irqCause &&& 0b01111 } })

/-- IRQ_CAUSE_CLEAR, IRQ ENABLE and INT (R158, R159, R160): the causes whose bit is 1 are cleared and the others left,
the enables take the five low bits, and INT is low exactly while a cause is both set and enabled. -/
def Obligations.CausesClearAndIntFollows : Prop :=
  (∀ (value : Word) (s₀ s : State), s = s₀.served → s.port.resetAsserted = false → ∃ t,
    exec (.irqCauseClear value) s₀ = .next t ∧
      t = { s with port := { s.port with irqCause := t.port.irqCause } } ∧
      ∀ i < 5, t.port.irqCause.getLsbD i = (s.port.irqCause.getLsbD i && !value.getLsbD i)) ∧
  (∀ (value : Word) (s₀ s : State), s = s₀.served → s.port.resetAsserted = false → ∃ t,
    exec (.registerWrite 0x0011 value) s₀ = .next t ∧
      t = { s with port := { s.port with irqEnable := t.port.irqEnable } } ∧
      ∀ i < 5, t.port.irqEnable.getLsbD i = value.getLsbD i) ∧
  (∀ s : State, s.port.resetAsserted = false →
    (s.port.intLow = true ↔ ∃ i < 5, s.port.irqCause.getLsbD i = true ∧ s.port.irqEnable.getLsbD i = true))

/-- TIME_LOW_READ (R167): the read returns the lower half of the time tag and captures the upper half, which TIME HIGH
then reads; nothing else changes. No command of any other kind but pin reset moves the holding register. -/
def Obligations.TimeLowReadCapturesTheUpperHalf : Prop :=
  (∀ (s₀ s : State), s = s₀.served → s.port.resetAsserted = false →
    exec .timeLowRead s₀ =
      .next { s with
        port := { s.port with readData := s.time.extractLsb' 0 16, timeHold := s.time.extractLsb' 16 16 } }) ∧
  (∀ s : State, s.readRegister .timeHigh = s.port.timeHold) ∧
  (∀ (c : Instr) (s t : State), c.wellFormed = true → c ≠ .timeLowRead → c ≠ .pinReset → exec c s = .next t →
    t.port.timeHold = s.port.timeHold)

/-- REGISTER_WRITE of the registers with a range (R1, R42, R55, R79, R81, R102, R142): a value in the range is stored,
any other is ignored with BAD VALUE, or SELECT RANGE for the two select registers. -/
def Obligations.RangedRegistersStoreOrRefuse : Prop :=
  ∀ (v : Word) (s₀ s : State), s = s₀.served → s.port.resetAsserted = false →
    storedWithin s₀ s 0x0023 v 0 15288 .badValue { s.set with planABase := v } ∧
    storedWithin s₀ s 0x0024 v 0 15288 .badValue { s.set with planBBase := v } ∧
    storedWithin s₀ s 0x0026 v 0 3 .badValue { s.set with demandRetries := v } ∧
    storedWithin s₀ s 0x0032 v 0 255 .badValue { s.set with occupancyGuard := v } ∧
    storedWithin s₀ s 0x0035 v 0 255 .selectRange { s.set with pointSelect := v } ∧
    storedWithin s₀ s 0x0040 v 1 62 .selectRange { s.set with stationSelect := v } ∧
    storedWithin s₀ s 0x0041 v 1 15 .badValue { s.set with suspectAfter := v } ∧
    storedWithin s₀ s 0x0042 v 1 15 .badValue { s.set with absentAfter := v } ∧
    storedWithin s₀ s 0x0043 v 1 7 .badValue { s.set with confirmCount := v } ∧
    storedWithin s₀ s 0x0044 v 1 255 .badValue { s.set with probeInterval := v } ∧
    storedWithin s₀ s 0x0061 v 1 255 .badValue { s.set with trainingTimeout := v } ∧
    storedWithin s₀ s 0x0062 v 1 7 .badValue { s.set with trunkFaultLimit := v }

/-- GATES (R7): a write stores the eight low bits, the upper eight read as 0, the register reads 0 after pin reset, and
nothing but a host write to it or pin reset ever changes it: no engine state, no ENGINE RESET, no event. -/
def Obligations.GatesBelongToTheHost : Prop :=
  (∀ (v : Word) (s₀ s : State), s = s₀.served → s.port.resetAsserted = false →
    exec (.registerWrite 0x0025 v) s₀ = .next { s with set := { s.set with gates := v.extractLsb' 0 8 } }) ∧
  (∀ (s : State) (i : Nat),
    (s.readRegister .gates).getLsbD i = (decide (i < 8) && s.set.gates.getLsbD i)) ∧
  (∀ s t : State, exec .pinReset s = .next t → t.set.gates = 0) ∧ State.reset.set.gates = 0 ∧
  (∀ (c : Instr) (s t : State), c.wellFormed = true → c ≠ .pinReset → (∀ v, c ≠ .registerWrite 0x0025 v) →
    exec c s = .next t → t.set.gates = s.set.gates)

/-- REGISTER_WRITE of the other read-write registers: POINT BASE and POINT COUNT against each other (R99), CMD ARG 0
to 3 (R172), RING WATERMARK (R157) and EVENT ENABLE, whose bits 0, 13 and 14 are discarded (R152). -/
def Obligations.OtherRegistersStoreOrRefuse : Prop :=
  ∀ (v : Word) (s₀ s : State), s = s₀.served → s.port.resetAsserted = false →
    (v.toNat + 8 * s.set.pointCount.toNat ≤ 16384 →
      exec (.registerWrite 0x0033 v) s₀ = .next { s with set := { s.set with pointBase := v } }) ∧
    (16384 < v.toNat + 8 * s.set.pointCount.toNat →
      exec (.registerWrite 0x0033 v) s₀ = .next (s.hostError .badValue 0x0033)) ∧
    (1 ≤ v.toNat ∧ v.toNat ≤ 256 ∧ s.set.pointBase.toNat + 8 * v.toNat ≤ 16384 →
      exec (.registerWrite 0x0034 v) s₀ = .next { s with set := { s.set with pointCount := v } }) ∧
    (¬(1 ≤ v.toNat ∧ v.toNat ≤ 256 ∧ s.set.pointBase.toNat + 8 * v.toNat ≤ 16384) →
      exec (.registerWrite 0x0034 v) s₀ = .next (s.hostError .badValue 0x0034)) ∧
    exec (.registerWrite 0x0008 v) s₀ = .next { s with cmd := { s.cmd with args := { s.cmd.args with arg0 := v } } } ∧
    exec (.registerWrite 0x0009 v) s₀ = .next { s with cmd := { s.cmd with args := { s.cmd.args with arg1 := v } } } ∧
    exec (.registerWrite 0x000A v) s₀ = .next { s with cmd := { s.cmd with args := { s.cmd.args with arg2 := v } } } ∧
    exec (.registerWrite 0x000B v) s₀ = .next { s with cmd := { s.cmd with args := { s.cmd.args with arg3 := v } } } ∧
    (1 ≤ v.toNat ∧ v.toNat ≤ 2 ^ s.ring.size.toNat - 1 →
      exec (.registerWrite 0x0076 v) s₀ = .next { s with ring := { s.ring with watermark := v } }) ∧
    (v.toNat = 0 ∨ 2 ^ s.ring.size.toNat - 1 < v.toNat →
      exec (.registerWrite 0x0076 v) s₀ = .next (s.hostError .badValue 0x0076)) ∧
    (∃ t, exec (.registerWrite 0x0077 v) s₀ = .next t ∧
      t = { s with ring := { s.ring with enable := t.ring.enable } } ∧
      ∀ i < 16, t.ring.enable.getLsbD i = (v.getLsbD i && (decide (1 ≤ i ∧ i ≤ 12) || decide (i = 15))))

/-- STATION_CONFIG_WRITE and TRUNK RATE, the writes under a state lock (R80, R143): a station's configuration is
stored while it is OFF and is LOCKED otherwise, the trunk rate while both interfaces are OFF; its range is judged
before its lock, and the 8 bit times of the gap and of quiet then last 16, 8 or 4 µs, counted from where they began
(assumption 23). That a LOCKED station's word 1 is not judged for its value is read from R80 (assumption 31). A
station's expected identity is constant while it is not OFF. -/
def Obligations.LockedConfigurationIsRefused : Prop :=
  (∀ (v : Word) (s₀ s : State) (n : Nat) (r : Station), s = s₀.served → s.port.resetAsserted = false →
    n = s.set.stationSelect.toNat → r = s.station n →
    (r.state = .off →
      exec (.stationConfigWrite .expectedIdentity v) s₀ = .next (s.setStation n { r with expectedIdentity := v }) ∧
      (v = 0 → exec (.stationConfigWrite .preferredTrunk v) s₀ = .next (s.setStation n { r with preferredTrunk := .a })) ∧
      (v = 1 → exec (.stationConfigWrite .preferredTrunk v) s₀ = .next (s.setStation n { r with preferredTrunk := .b })) ∧
      (1 < v.toNat → exec (.stationConfigWrite .preferredTrunk v) s₀ = .next (s.hostError .badValue 0x0049))) ∧
    (r.state ≠ .off →
      exec (.stationConfigWrite .expectedIdentity v) s₀ = .next (s.hostError .locked 0x0048) ∧
      exec (.stationConfigWrite .preferredTrunk v) s₀ = .next (s.hostError .locked 0x0049))) ∧
  (∀ (v : Word) (s₀ s : State), s = s₀.served → s.port.resetAsserted = false →
    (2 < v.toNat → exec (.registerWrite 0x0060 v) s₀ = .next (s.hostError .badValue 0x0060)) ∧
    (v.toNat ≤ 2 → s.trunkA.state = .off → s.trunkB.state = .off → ∀ t : State,
      t = { s with set := { s.set with trunkRate := v } } →
      exec (.registerWrite 0x0060 v) s₀ = .next t ∧
        ∀ (k : TrunkId) (eight left : Nat), eight = (if v = 0 then 16 else if v = 1 then 8 else 4) →
          left = (s.trunk k).gapHold - (16 - eight) →
          t.bitTimes 8 = eight ∧ t.quietLeft k = (s.trunk k).quietHold - (16 - eight) ∧
            ((s.trunk k).frameLeft = 0 ∨ left ≤ (s.trunk k).frameLeft → t.gapLeft k = left) ∧
            (0 < (s.trunk k).frameLeft → (s.trunk k).frameLeft < left →
              t.gapLeft k = max left ((s.trunk k).frameLeft + eight))) ∧
    (v.toNat ≤ 2 → ¬(s.trunkA.state = .off ∧ s.trunkB.state = .off) →
      exec (.registerWrite 0x0060 v) s₀ = .next (s.hostError .locked 0x0060))) ∧
  (∀ (c : Instr) (s t : State) (n : Nat), c ≠ .pinReset → (s.station n).state ≠ .off → exec c s = .next t →
    (t.station n).expectedIdentity = (s.station n).expectedIdentity)

/-- READ_ONLY_WRITE (R164): a write to any read-only register or window word is ignored with READ ONLY. -/
def Obligations.ReadOnlyWriteIsIgnored : Prop :=
  ∀ (address : HostAddress) (v : Word) (s₀ s : State) (r : Register), s = s₀.served → s.port.resetAsserted = false →
    registerAt address.toNat = some r →
    r ∈ [.id, .revision, .cmdStatus, .cmdResult, .cmdDetail, .hostErrorAddress, .timeLow, .timeHigh, .engineStatus,
        .enginePosition, .sweepCount, .transferStatus, .transferPoint, .pointWindow 0, .pointWindow 1, .pointWindow 2,
        .pointWindow 3, .pointWindow 4, .stationWindow 2, .stationWindow 3, .stationWindow 4, .stationWindow 5,
        .demandStatus, .trunkStatus .a, .trunkStatus .b, .ringWriteIndex, .ringStatus, .droppedCount] →
    exec (.readOnlyWrite address v) s₀ = .next (s.hostError .readOnly address)

/-- ID and REVISION (R177): they read 0062h and 0001h in every state, and a write is ignored with READ ONLY. -/
def Obligations.IdentityOfThePart : Prop :=
  ∀ (s₀ s : State), s = s₀.served → s.readRegister .id = 0x0062 ∧ s.readRegister .revision = 0x0001 ∧
    (s.port.resetAsserted = false → ∀ v : Word,
      s.hostAccess 0x0000 .read = { s with port := { s.port with readData := 0x0062 } } ∧
      s.hostAccess 0x0001 .read = { s with port := { s.port with readData := 0x0001 } } ∧
      exec (.readOnlyWrite 0x0000 v) s₀ = .next (s.hostError .readOnly 0x0000) ∧
      exec (.readOnlyWrite 0x0001 v) s₀ = .next (s.hostError .readOnly 0x0001))

/-- UNDEFINED_COMMAND and COMMAND_OVERRUN (R173): a code that names no command completes at once with BAD OPERAND and
detail 0; a write while BUSY is not taken and records COMMAND OVERRUN, whatever the code. -/
def Obligations.CommandRegisterJudgesTheWrite : Prop :=
  (∀ (code : Word) (s₀ s : State), s = s₀.served → Ready s →
    code ∉ [0x01, 0x02, 0x03, 0x04, 0x05, 0x06, 0x07, 0x10, 0x11, 0x20, 0x21, 0x30, 0x31, 0x32, 0x40, 0x41, 0x50, 0x51] →
    exec (.undefinedCommand code) s₀ = .next (completed s code .badOperand 0)) ∧
  (∀ (code : Word) (s₀ s : State), s = s₀.served → s.port.resetAsserted = false → s.cmd.held ≠ none →
    exec (.commandOverrun code) s₀ = .next (s.hostError .commandOverrun 0x0004) ∧
    ∀ c ∈ [Instr.start, .step, .stopRound, .stopSweep, .abort, .clearHalt, .engineReset, .switchPlan,
        .switchPlanCancel, .validatePlan, .stationEnable, .stationDisable, .pointHold, .pointRelease, .pointCommit,
        .demandPost, .demandCancel, .trunkTrain, .trunkOff, .undefinedCommand code],
      exec c s₀ = .next (s.hostError .commandOverrun 0x0004))

/-- What the host reads at the address of each register (R24, R76, R79, R102, R130, R145, R151, R162, R171, R174,
Tables 11-1 to 11-4): every field of ENGINE STATUS, ENGINE POSITION, TRANSFER STATUS, TRANSFER POINT, DEMAND STATUS, CMD
STATUS, the two TRUNK STATUS registers, RING STATUS, the window words of the selected station and of the selected
point; the counters, indices, causes, result and error latch; and every setting as it was stored. A read of any register but TIME LOW changes nothing in the part but the word returned. -/
def Obligations.StatusRegistersShowTheirFields : Prop :=
  (∀ (s : State) (a : HostAddress) (r : Register), s.port.resetAsserted = false → registerAt a.toNat = some r →
    r ≠ .timeLow → s.hostAccess a .read = { s with port := { s.port with readData := s.readRegister r } }) ∧
  ∀ (s : State) (w : HostAddress → Word), s.port.resetAsserted = false →
    (∀ a, w a = (s.hostAccess a .read).port.readData) →
    (w 0x0005 = if s.cmd.held = none then 0 else 1) ∧
    (field (w 0x0020) 0 2 = s.eng.state.code ∧ field (w 0x0020) 2 2 = s.eng.stop.code ∧
      field (w 0x0020) 4 2 = s.eng.halt.code ∧ field (w 0x0020) 8 2 = bankField (s.eng.active.map (·.bank)) ∧
      field (w 0x0020) 10 2 = bankField (s.eng.pending.map (·.bank))) ∧
    (s.eng.round < 64 → s.eng.slot < 512 →
      field (w 0x0021) 10 6 = s.eng.round ∧ field (w 0x0021) 0 9 = s.eng.slot ∧
      (bitOf (w 0x0021) 9 = true ↔ s.eng.phase ≠ .none)) ∧
    (s.xfer = none → w 0x0030 = 0 ∧ w 0x0031 = 0) ∧
    (∀ x, s.xfer = some x → x.attempts < 8 → x.station < 64 →
      bitOf (w 0x0030) 15 = true ∧ field (w 0x0030) 12 3 = x.kind.code ∧ field (w 0x0030) 9 3 = x.attempts ∧
      field (w 0x0030) 8 1 = trunkBit x.trunk ∧ bitOf (w 0x0030) 7 = x.toggle ∧
      bitOf (w 0x0030) 6 = x.demandTag.isSome ∧ field (w 0x0030) 0 6 = x.station ∧
      field (w 0x0031) 0 8 = x.point.toNat ∧
      (x.demandTag = none → field (w 0x0031) 8 8 = 0) ∧
      ∀ tag, x.demandTag = some tag → field (w 0x0031) 8 8 = tag.toNat) ∧
    (s.demands.length < 16 →
      field (w 0x0050) 0 4 = s.demands.length ∧
      (s.demandInFlight = none → bitOf (w 0x0050) 7 = false ∧ field (w 0x0050) 8 8 = 0) ∧
      ∀ d, s.demandInFlight = some d → bitOf (w 0x0050) 7 = true ∧ field (w 0x0050) 8 8 = d.tag.toNat) ∧
    (∀ r, r = s.station s.set.stationSelect.toNat → r.failureRun < 16 → r.confirmCount < 8 → r.probeCountdown < 256 →
      w 0x0048 = r.expectedIdentity ∧ (w 0x0049).toNat = trunkBit r.preferredTrunk ∧
      field (w 0x004A) 0 3 = r.state.code ∧ field (w 0x004A) 4 1 = trunkBit r.currentTrunk ∧
      bitOf (w 0x004A) 5 = r.nextToggle ∧ bitOf (w 0x004A) 6 = r.mismatch ∧
      field (w 0x004B) 12 4 = r.failureRun ∧ field (w 0x004B) 8 3 = r.confirmCount ∧
      field (w 0x004B) 0 8 = r.probeCountdown ∧ (w 0x004C).toNat = r.lastCondition.toNat ∧
      w 0x004D = r.heardIdentity) ∧
    (∀ k a, (k = TrunkId.a ∧ a = (0x0063 : HostAddress) ∨ k = .b ∧ a = 0x0064) → (s.trunk k).faults < 8 →
      (s.trunk k).training < 8 →
      field (w a) 0 2 = (s.trunk k).state.code ∧ field (w a) 4 3 = (s.trunk k).faults ∧
      field (w a) 8 3 = (s.trunk k).training) ∧
    (s.ring.published < 1024 → bitOf (w 0x0074) 15 = s.ring.dropping ∧ field (w 0x0074) 0 11 = s.ring.published) ∧
    (∀ e, s.set.pointSelect.toNat ≤ 255 → e = s.point (BitVec.ofNat 8 s.set.pointSelect.toNat) → e.stampRound < 64 →
      bitOf (w 0x0038) 0 = e.stable ∧ bitOf (w 0x0038) 1 = e.transmit ∧ bitOf (w 0x0038) 2 = e.hold ∧
      bitOf (w 0x0038) 3 = e.pending ∧ bitOf (w 0x0038) 4 = e.committed ∧ bitOf (w 0x0038) 5 = e.inFlight ∧
      w 0x0039 = e.updates ∧ (w 0x003A).toNat = e.lastOutcome.code ∧ w 0x003B = e.stampSweep ∧
      (w 0x003C).toNat = e.stampRound) ∧
    (w 0x0004 = s.cmd.code ∧ (w 0x0006).toNat = s.cmd.result.code ∧ w 0x0007 = s.cmd.detail ∧
      w 0x0008 = s.cmd.args.arg0 ∧ w 0x0009 = s.cmd.args.arg1 ∧ w 0x000A = s.cmd.args.arg2 ∧
      w 0x000B = s.cmd.args.arg3) ∧
    ((w 0x0010).toNat = s.port.irqCause.toNat ∧ (w 0x0011).toNat = s.port.irqEnable.toNat ∧
      (w 0x0012).toNat = s.port.errorCode.code ∧ (w 0x0013).toNat = s.port.errorAddress.toNat) ∧
    (w 0x0022 = s.eng.sweep ∧ (w 0x0025).toNat = s.set.gates.toNat) ∧
    (s.ring.readIndex < 1024 → (w 0x0072).toNat = s.ring.readIndex) ∧
    (s.ring.writeIndex < 1024 → (w 0x0073).toNat = s.ring.writeIndex) ∧
    (s.ring.dropped ≤ 65535 → (w 0x0075).toNat = s.ring.dropped) ∧
    (w 0x0070 = s.ring.base ∧ w 0x0071 = s.ring.size ∧ w 0x0076 = s.ring.watermark ∧ w 0x0077 = s.ring.enable) ∧
    (w 0x0023 = s.set.planABase ∧ w 0x0024 = s.set.planBBase ∧ w 0x0026 = s.set.demandRetries ∧
      w 0x0032 = s.set.occupancyGuard ∧ w 0x0033 = s.set.pointBase ∧ w 0x0034 = s.set.pointCount ∧
      w 0x0035 = s.set.pointSelect ∧ w 0x0040 = s.set.stationSelect ∧ w 0x0041 = s.set.suspectAfter ∧
      w 0x0042 = s.set.absentAfter ∧ w 0x0043 = s.set.confirmCount ∧ w 0x0044 = s.set.probeInterval ∧
      w 0x0060 = s.set.trunkRate ∧ w 0x0061 = s.set.trainingTimeout ∧ w 0x0062 = s.set.trunkFaultLimit)

/-! ## The event ring -/

/-- RING_READ_INDEX_WRITE (R150, R155): a value of E or more, or one past the published records, is refused with BAD
READ INDEX; any other becomes the read index, and with DROPPING set it brings the ring out when the reserved occupancy
falls to E/2 or below, a RESUMED record with the dropped count being reserved. -/
def Obligations.ReadIndexWriteConsumesOrIsRefused : Prop :=
  ∀ (v : Word) (s₀ s : State), s = s₀.served → s.port.resetAsserted = false →
    (2 ^ s.ring.size.toNat ≤ v.toNat →
      exec (.ringReadIndexWrite v) s₀ = .next (s.hostError .badReadIndex 0x0072)) ∧
    (v.toNat < 2 ^ s.ring.size.toNat →
      s.ring.published < (v.toNat + 2 ^ s.ring.size.toNat - s.ring.readIndex) % 2 ^ s.ring.size.toNat →
      exec (.ringReadIndexWrite v) s₀ = .next (s.hostError .badReadIndex 0x0072)) ∧
    (v.toNat < 2 ^ s.ring.size.toNat →
      (v.toNat + 2 ^ s.ring.size.toNat - s.ring.readIndex) % 2 ^ s.ring.size.toNat ≤ s.ring.published →
      ∀ moved : Ring, moved = { s.ring with readIndex := v.toNat } →
      (s.ring.dropping = false ∨ 2 ^ s.ring.size.toNat / 2 < moved.reserved →
        exec (.ringReadIndexWrite v) s₀ = .next { s with ring := moved }) ∧
      (s.ring.dropping = true ∧ moved.reserved ≤ 2 ^ s.ring.size.toNat / 2 →
        exec (.ringReadIndexWrite v) s₀ =
          .next { s with
            ring :=
              { moved with
                awaiting := s.ring.awaiting ++
                  [{ kind := .resumed, trunk := none, round := s.eng.round, station := 0, outcome := .none, item := 0
                     sweep := s.eng.sweep, time := s.time, detail := BitVec.ofNat 16 s.ring.dropped }]
                dropping := false, dropped := 0 } }))

/-- RING_GEOMETRY_WRITE (R148): range, then lock, then fit; an accepted write empties the ring in the same step, with
a record partly stored, and a RING SIZE write may lower RING WATERMARK to E - 1. -/
def Obligations.RingGeometryWriteEmptiesTheRing : Prop :=
  ∀ (v : Word) (s₀ s : State), s = s₀.served → s.port.resetAsserted = false →
    (16383 < v.toNat → exec (.ringGeometryWrite .base v) s₀ = .next (s.hostError .badValue 0x0070)) ∧
    (v.toNat ≤ 16383 → (s.eng.state = .running ∨ s.eng.state = .draining) →
      exec (.ringGeometryWrite .base v) s₀ = .next (s.hostError .locked 0x0070)) ∧
    (v.toNat ≤ 16383 → (s.eng.state = .idle ∨ s.eng.state = .halted) →
      (16384 < v.toNat + 8 * 2 ^ s.ring.size.toNat →
        exec (.ringGeometryWrite .base v) s₀ = .next (s.hostError .badValue 0x0070)) ∧
      (v.toNat + 8 * 2 ^ s.ring.size.toNat ≤ 16384 →
        exec (.ringGeometryWrite .base v) s₀ =
          .next { s with
            traffic := { s.traffic with stored := 0 }
            ring :=
              { s.ring with
                base := v, readIndex := 0, writeIndex := 0, awaiting := [], dropping := false, dropped := 0 } })) ∧
    (v.toNat < 4 ∨ 10 < v.toNat → exec (.ringGeometryWrite .size v) s₀ = .next (s.hostError .badValue 0x0071)) ∧
    (4 ≤ v.toNat → v.toNat ≤ 10 → (s.eng.state = .running ∨ s.eng.state = .draining) →
      exec (.ringGeometryWrite .size v) s₀ = .next (s.hostError .locked 0x0071)) ∧
    (4 ≤ v.toNat → v.toNat ≤ 10 → (s.eng.state = .idle ∨ s.eng.state = .halted) →
      (16384 < s.ring.base.toNat + 8 * 2 ^ v.toNat →
        exec (.ringGeometryWrite .size v) s₀ = .next (s.hostError .badValue 0x0071)) ∧
      (s.ring.base.toNat + 8 * 2 ^ v.toNat ≤ 16384 → ∃ t,
        exec (.ringGeometryWrite .size v) s₀ = .next t ∧
          t = { s with
                traffic := { s.traffic with stored := 0 }
                ring :=
                  { s.ring with
                    size := v, readIndex := 0, writeIndex := 0, awaiting := [], dropping := false, dropped := 0
                    watermark := t.ring.watermark } } ∧
          t.ring.watermark.toNat = min s.ring.watermark.toNat (2 ^ v.toNat - 1)))

/-- The storing of an event record and EVENT_RECORD_PUBLISHED (R149, R157, R158, R184): the writer's accesses store
the words of the record at the head, from the first not yet stored, at the write index's position, and no other word.
With the eighth the record leaves the list, the index advances, EVENT is set, and WATERMARK exactly when the published
occupancy then equals RING WATERMARK. That the row asks for the eighth word, after any that are still missing, is the
model's choice (assumption 10). -/
def Obligations.PublicationStoresOneWholeRecord : Prop :=
  (∀ (s u : State) (r : EventRecord) (rest : List EventRecord) (n p : Nat), RamCanonical s → RingInv s.ring →
    s.ring.awaiting = r :: rest → s.traffic.stored + n ≤ 8 → u = s.serveMany .eventWriter n →
    p = s.ring.base.toNat + 8 * s.ring.writeIndex →
    u = { s with ram := u.ram, traffic := u.traffic, lastGrant := if n = 0 then s.lastGrant else .eventWriter } ∧
    u.traffic.stored = s.traffic.stored + n ∧
    (∀ k, s.traffic.stored ≤ k → k < s.traffic.stored + n → u.ram.read (p + k) =
      [ BitVec.ofNat 16 (r.round * 64 + trunkField r.trunk * 16 + r.kind.code),
        BitVec.ofNat 16 (r.outcome.code * 256 + r.station), r.item, r.sweep, r.time.extractLsb' 0 16,
        r.time.extractLsb' 16 16, r.detail, 0 ].getD k 0) ∧
    ∀ a < 16384, a < p + s.traffic.stored ∨ p + s.traffic.stored + n ≤ a → u.ram.read a = s.ram.read a) ∧
  (∀ (s₀ s u : State) (r : EventRecord) (rest : List EventRecord), s = s₀.served → s.ring.awaiting = r :: rest →
    u = s.serveMany .eventWriter (8 - s.traffic.stored) →
    ∃ t, exec .eventRecordPublished s₀ = .next t ∧
      t = { u with
            traffic := { u.traffic with stored := 0 }
            port := { s.port with irqCause := t.port.irqCause }
            ring :=
              { s.ring with
                awaiting := rest, writeIndex := (s.ring.writeIndex + 1) % 2 ^ s.ring.size.toNat } } ∧
      (t.ring.published = s.ring.watermark.toNat → t.port.irqCause = s.port.irqCause ||| 0b00011) ∧
      (t.ring.published ≠ s.ring.watermark.toNat → t.port.irqCause = s.port.irqCause ||| 0b00001))

/-- Admission (R152, R153, R154): an event of a disabled kind changes nothing; an enabled one is reserved while
DROPPING is clear and the reserved occupancy is E - 3 or below, is displaced by RING FULL above that, and is counted
while DROPPING is set, saturating at 65535. -/
def Obligations.EventsAreAdmittedDisplacedOrCounted : Prop :=
  ∀ (s : State) (kind : EventKind) (trunk : Option TrunkId) (station : Nat) (outcome : OutcomeCode) (item detail : Word),
    kind ≠ .ringFull → kind ≠ .resumed →
    (s.ring.enable.getLsbD kind.code = false → s.report kind trunk station outcome item detail = s) ∧
    (s.ring.enable.getLsbD kind.code = true → s.ring.dropping = true →
      s.report kind trunk station outcome item detail =
        { s with ring := { s.ring with dropped := min (s.ring.dropped + 1) 65535 } }) ∧
    (s.ring.enable.getLsbD kind.code = true → s.ring.dropping = false →
      s.ring.reserved + 3 ≤ 2 ^ s.ring.size.toNat →
      s.report kind trunk station outcome item detail =
        { s with
          ring :=
            { s.ring with
              awaiting := s.ring.awaiting ++
                [{ kind, trunk, round := s.eng.round, station, outcome, item, sweep := s.eng.sweep, time := s.time
                   detail }] } }) ∧
    (s.ring.enable.getLsbD kind.code = true → s.ring.dropping = false →
      2 ^ s.ring.size.toNat < s.ring.reserved + 3 →
      s.report kind trunk station outcome item detail =
        { s with
          ring :=
            { s.ring with
              dropping := true, dropped := 1
              awaiting := s.ring.awaiting ++
                [{ kind := .ringFull, trunk := none, round := s.eng.round, station := 0, outcome := .none, item := 0
                   sweep := s.eng.sweep, time := s.time, detail := BitVec.ofNat 16 kind.code }] } })

/-! ## The schedule engine -/

/-- START and STEP (R25, R26, R31): from IDLE with a plan the engine enters RUNNING, or DRAINING with stop point ROUND
END, writes ENGINE STATE, and a sweep begins; without a plan both are refused with detail 4; the other states as the
rules give. That the event is written before the sweep counter advances is read from the rules' order (assumption 14). -/
def Obligations.StartAndStepBeginASweep : Prop :=
  ∀ (s₀ s : State), s = s₀.served → Ready s →
    (s.eng.state = .idle → s.eng.active ≠ none →
      exec .start s₀ =
        .next ((sweepBegins (engineMoves (taken s 0x0001) .running .none 0x0101)).complete .done 0) ∧
      exec .step s₀ =
        .next ((sweepBegins (engineMoves (taken s 0x0002) .draining .roundEnd 0x0202)).complete .done 0)) ∧
    (s.eng.state = .idle → s.eng.active = none →
      exec .start s₀ = .next (completed s 0x0001 .refusedState 4) ∧
      exec .step s₀ = .next (completed s 0x0002 .refusedState 4)) ∧
    (s.eng.state = .running →
      exec .start s₀ = .next (completed s 0x0001 .done 0) ∧
      exec .step s₀ = .next (completed s 0x0002 .refusedState 1)) ∧
    (s.eng.state = .draining →
      exec .start s₀ = .next (completed (engineMoves s .running .none 0x2101) 0x0001 .done 0) ∧
      exec .step s₀ = .next (completed s 0x0002 .refusedState 2)) ∧
    (s.eng.state = .halted →
      exec .start s₀ = .next (completed s 0x0001 .refusedState 3) ∧
      exec .step s₀ = .next (completed s 0x0002 .refusedState 3))

/-- STOP_ROUND and STOP_SWEEP (R27): from RUNNING the engine enters DRAINING with the named stop point; in DRAINING the
earlier stop point wins; in IDLE and HALTED both are refused with the state code. -/
def Obligations.StopCommandsNameTheStopPoint : Prop :=
  ∀ (s₀ s : State), s = s₀.served → Ready s →
    (s.eng.state = .running →
      exec .stopRound s₀ = .next (completed (engineMoves s .draining .roundEnd 0x1203) 0x0003 .done 0) ∧
      exec .stopSweep s₀ = .next (completed (engineMoves s .draining .sweepEnd 0x1204) 0x0004 .done 0)) ∧
    (s.eng.state = .draining →
      exec .stopRound s₀ =
        .next (completed { s with eng := { s.eng with stop := .roundEnd } } 0x0003 .done 0) ∧
      exec .stopSweep s₀ = .next (completed s 0x0004 .done 0)) ∧
    (s.eng.state = .idle →
      exec .stopRound s₀ = .next (completed s 0x0003 .refusedState 0) ∧
      exec .stopSweep s₀ = .next (completed s 0x0004 .refusedState 0)) ∧
    (s.eng.state = .halted →
      exec .stopRound s₀ = .next (completed s 0x0003 .refusedState 3) ∧
      exec .stopSweep s₀ = .next (completed s 0x0004 .refusedState 3))

/-- ABORT and ABORT_COMPLETE (R29, R75, R124, R140): nothing in IDLE and HALTED; else a demand being read leaves
ABORTED, a transfer in progress ends ABORTED with its reports and no report to its trunk, whose transmission is cut
(assumption 23), and the engine enters IDLE. Without an attempt the command completes at once (assumption 20), and DONE with detail 0 (assumption 37); with
one it is held until the trunk is quiet or the answer window, as kept before a pending switch (assumption 34), plus
600 bit times have passed; the time still missing passes with ABORT_COMPLETE (assumption 3). -/
def Obligations.AbortStopsTheEngineAtOnce : Prop :=
  (∀ (s₀ s : State), s = s₀.served → Ready s → (s.eng.state = .idle ∨ s.eng.state = .halted) →
    exec .abort s₀ = .next (completed s 0x0005 .done 0)) ∧
  (∀ (s₀ s : State), s = s₀.served → Ready s → (s.eng.state = .running ∨ s.eng.state = .draining) → s.xfer = none →
    ((∀ n, s.eng.phase ≠ .demandReading n) ∨ s.demandInFlight = none →
      exec .abort s₀ = .next (((taken s 0x0005).stopEngine .idle .none 6).complete .done 0)) ∧
    (∀ n d, s.eng.phase = .demandReading n → s.demandInFlight = some d →
      exec .abort s₀ =
        .next (((({ taken s 0x0005 with demands := s.demands.filter (fun d => !d.inFlight) }).report .demandDone none
          d.station .aborted (d.tag.setWidth 16) (BitVec.ofNat 16 d.point.toNat)).stopEngine .idle .none 6).complete
            .done 0))) ∧
  (∀ (s₀ s c w u : State) (x y : Transfer), s = s₀.served → Ready s →
    (s.eng.state = .running ∨ s.eng.state = .draining) → s.xfer = some x →
    ((∃ el h0 h1 n pl, x.phase = .sending el h0 h1 n pl) ∧
        c = (taken s 0x0005).setTrunk x.trunk (silencedNow (s.trunk x.trunk)) ∨
      (∀ el h0 h1 n pl, x.phase ≠ .sending el h0 h1 n pl) ∧ c = taken s 0x0005) →
    y = { x with outcome := .aborted } →
    w = (((c.pointReport y .aborted).faultReport y .aborted).stationReport y .aborted).demandReport y .aborted →
    u = { w with xfer := none }.stopEngine .idle .none 6 →
    exec .abort s₀ =
      .next { u with
        cmd :=
          { u.cmd with
            held := some { args := s.cmd.args, work := .abortWait x.trunk (s.answerWindow + s.bitTimes 600) } } }) ∧
  (∀ (s₀ s : State) (args : CommandArgs) (k : TrunkId) (left : Nat), s = s₀.served →
    s.cmd.held = some { args, work := .abortWait k left } →
    exec .abortComplete s₀ = .next ((s.elapse (min (s.quietLeft k) left)).complete .done 0))

/-- CLEAR_HALT (R30): HALTED goes to IDLE with halt cause NONE, an ENGINE STATE event and the ENGINE cause; every other
state refuses with its code. -/
def Obligations.ClearHaltReturnsToIdle : Prop :=
  ∀ (s₀ s : State), s = s₀.served → Ready s →
    (s.eng.state = .halted → ∀ u : State,
      u = engineMoves { s with eng := { s.eng with halt := .none } } .idle .none 0x3009 →
      exec .clearHalt s₀ =
        .next (completed { u with port := { u.port with irqCause := u.port.irqCause ||| 0b00100 } } 0x0006 .done 0)) ∧
    (s.eng.state = .idle → exec .clearHalt s₀ = .next (completed s 0x0006 .refusedState 0)) ∧
    (s.eng.state = .running → exec .clearHalt s₀ = .next (completed s 0x0006 .refusedState 1)) ∧
    (s.eng.state = .draining → exec .clearHalt s₀ = .next (completed s 0x0006 .refusedState 2))

/-- ENGINE_RESET and ENGINE_RESET_COMPLETE (R46, R49, R97, R116, R118, R156, R161): run-time state is reset in one
step, in every engine state and without an event; plan, settings, host error latch, lines and ring registers are kept,
and the RAM with the words of a record partly stored. The transmission of a cut call ends where it stands, and the
lines are otherwise as before (assumption 23). It completes at once without an attempt in flight (assumption 20), else
when the cut attempt's trunk is quiet or the bound is reached, the time still missing passing with
ENGINE_RESET_COMPLETE (assumption 3). -/
def Obligations.EngineResetClearsRunTimeState : Prop :=
  (∀ (s₀ s : State), s = s₀.served → Ready s → s.xfer = none →
    exec .engineReset s₀ = .next (completed (runTimeReset s) 0x0007 .done 0)) ∧
  (∀ (s₀ s c : State) (x : Transfer), s = s₀.served → Ready s → s.xfer = some x →
    ((∃ el h0 h1 n pl, x.phase = .sending el h0 h1 n pl) ∧
        c = s.setTrunk x.trunk (silencedNow (s.trunk x.trunk)) ∨
      (∀ el h0 h1 n pl, x.phase ≠ .sending el h0 h1 n pl) ∧ c = s) →
    exec .engineReset s₀ =
      .next (busyWith { runTimeReset s with trunkA := c.trunkA, trunkB := c.trunkB } 0x0007
        (.resetWait x.trunk (s.answerWindow + s.bitTimes 600)))) ∧
  (∀ (s₀ s : State) (args : CommandArgs) (k : TrunkId) (left : Nat), s = s₀.served →
    s.cmd.held = some { args, work := .resetWait k left } →
    exec .engineResetComplete s₀ = .next ((s.elapse (min (s.quietLeft k) left)).complete .done 0))

/-- A round begins (R32, R91, R126): index and timer, ABSENT stations' probe countdowns, waiting demands' deadlines
with those that reach 0 leaving with DEMAND DONE outcome EXPIRED in their order, then the first slot, whose record is
read. -/
def Obligations.RoundStartAgesTheTables : Prop :=
  ∀ (s t : State) (g : Geometry) (r : Nat) (entry : DirectoryEntry), s.eng.active = some g →
    entry = g.directory.getD r { first := 0, count := 0 } → t = s.beginRound r →
    t = { s with
          eng := { s.eng with round := r, timer := .running (g.roundPeriod * 10), slot := t.eng.slot, phase := t.eng.phase }
          stations := t.stations, demands := t.demands, ring := t.ring, traffic := t.traffic } ∧
    (∀ n, 1 ≤ n → n ≤ 62 →
      ((s.station n).state = .absent →
        t.station n = { s.station n with probeCountdown := (s.station n).probeCountdown - 1 }) ∧
      ((s.station n).state ≠ .absent → t.station n = s.station n)) ∧
    t.demands =
      (s.demands.filter (fun d => d.inFlight || d.deadline != 1)).map
        (fun d => if d.inFlight then d else { d with deadline := d.deadline - 1 }) ∧
    t.ring =
      ((s.demands.filter (fun d => !d.inFlight && d.deadline == 1)).foldl
        (fun (u : State) d =>
          u.report .demandDone none d.station .expired (d.tag.setWidth 16) (BitVec.ofNat 16 d.point.toNat))
        { s with eng := { s.eng with round := r } }).ring ∧
    (entry.count = 0 → t.eng.slot = s.eng.slot ∧ t.eng.phase = s.eng.phase ∧ t.traffic = s.traffic) ∧
    (0 < entry.count →
      t.eng.slot = entry.first ∧ t.eng.phase = .reading 0 ∧ t.traffic = { s.traffic with engine := some [] })

/-- ROUND_TIMER_EXPIRY (R28, R33, R34, R35, R36): with every slot ended the round ends: the sweep boundary, a stop
point, or the next round. Otherwise the round has overrun: ROUND OVERRUN names the first slot that has not ended and
counts those that have not begun, and the policy acts. The event happens when the timer's time has passed (assumption
3). That under TRUNCATE and HALT a slot whose records are read, or a demand whose record is read, ends at the expiry
itself is deduced (assumption 21). -/
def Obligations.RoundTimerEndsTheRoundOrOverruns : Prop :=
  ∀ (s₀ s u : State) (g : Geometry) (left : Nat), s = s₀.served → s.eng.timer = .running left → s.eng.active = some g →
    u = s.elapse left →
    (u.eng.phase = .none → u.slotsLeft = 0 →
      (g.roundCount ≤ s.eng.round + 1 → exec .roundTimerExpiry s₀ = .next u.sweepBoundary) ∧
      (s.eng.round + 1 < g.roundCount → s.eng.state = .draining → s.eng.stop = .roundEnd →
        exec .roundTimerExpiry s₀ = .next (u.stopEngine .idle .none 5)) ∧
      (s.eng.round + 1 < g.roundCount → ¬(s.eng.state = .draining ∧ s.eng.stop = .roundEnd) →
        exec .roundTimerExpiry s₀ = .next (u.beginRound (s.eng.round + 1)))) ∧
    (¬(u.eng.phase = .none ∧ u.slotsLeft = 0) → ∀ o : State,
      o = ({ u with eng := { u.eng with timer := .expired } }).report .roundOverrun none 0 .none
        (BitVec.ofNat 16 (s.eng.slot + if u.eng.phase = SlotPhase.none then 1 else 0)) (BitVec.ofNat 16 u.slotsLeft) →
      (g.policy = .late → exec .roundTimerExpiry s₀ = .next o) ∧
      (g.policy ≠ .late → u.eng.phase = .transferring → exec .roundTimerExpiry s₀ = .next o) ∧
      (g.policy ≠ .late → (∃ n, u.eng.phase = .demandReading n) →
        exec .roundTimerExpiry s₀ = .next (waitingAgain o).endSlot) ∧
      (g.policy ≠ .late → (u.eng.phase = .none ∨ (∃ n, u.eng.phase = .reading n) ∨ ∃ n, u.eng.phase = .pausing n) →
        exec .roundTimerExpiry s₀ = .next o.endSlot))

/-- The end of a slot (R33 to R36, R40), and PAUSE_END (R6, R43): HALT after an expiry halts the engine, TRUNCATE ends
the round, else the next slot begins, or the round ends late, or the engine waits for the timer. The slots that have
not begun are those of the round's entry in the kept directory after the slot index, and none where the round has no
slots (R32, R34). The time still missing of a pause passes with PAUSE_END (assumption 3). -/
def Obligations.SlotEndLeadsOn : Prop :=
  (∀ (s e : State) (g : Geometry), s.eng.active = some g →
    e = { s with eng := { s.eng with phase := .none }, traffic := { s.traffic with engine := none } } →
    (s.eng.timer = .expired → g.policy = .halt → s.endSlot = e.stopEngine .halted .overrun 7) ∧
    (s.eng.timer = .expired → g.policy = .truncate → s.endSlot = e.endRound) ∧
    ((s.eng.timer ≠ .expired ∨ g.policy = .late) → 0 < e.slotsLeft →
      s.endSlot =
        { e with
          eng := { e.eng with slot := s.eng.slot + 1, phase := .reading 0 }
          traffic := { e.traffic with engine := some [] } }) ∧
    (s.eng.timer = .expired → g.policy = .late → e.slotsLeft = 0 → s.endSlot = e.endRound) ∧
    (s.eng.timer ≠ .expired → e.slotsLeft = 0 → s.endSlot = e)) ∧
  (∀ (s : State) (g : Geometry) (entry : DirectoryEntry), s.eng.active = some g →
    entry = g.directory.getD s.eng.round { first := 0, count := 0 } →
    s.slotsLeft = if entry.count = 0 then 0 else entry.first + entry.count - (s.eng.slot + 1)) ∧
  (∀ (s₀ s : State) (left : Nat), s = s₀.served → s.eng.phase = .pausing left →
    exec .pauseEnd s₀ = .next (s.elapse left).endSlot)

/-- Entering IDLE or HALTED, the end of a round and the sweep boundary (R18, R19, R23, R28, R31, R38): a pending
switch is applied before the ENGINE STATE event, the timer stops, no slot is in progress and the ENGINE cause is set;
at the boundary SWEEP END counts the rounds of the bank that ran the sweep. The trunk and station fields of PLAN
SWITCHED and SWEEP END, which no rule names, are the model's choice (assumption 33). -/
def Obligations.StopsAndBoundariesApplyThePendingSwitch : Prop :=
  (∀ (s u : State) (new : EngineState) (halt : HaltCause) (cause : Nat),
    u = engineMoves
      { switched s with
        eng := { (switched s).eng with phase := .none, timer := .stopped, halt }
        traffic := { (switched s).traffic with engine := none } }
      new .none (BitVec.ofNat 16 (s.eng.state.code * 4096 + new.code * 256 + cause)) →
    s.stopEngine new halt cause = { u with port := { u.port with irqCause := u.port.irqCause ||| 0b00100 } }) ∧
  (∀ (s told : State) (g : Geometry), s.eng.active = some g →
    told = (switched s).report .sweepEnd none 0 .none 0 (BitVec.ofNat 16 g.roundCount) →
    (s.eng.state = .draining → s.sweepBoundary = told.stopEngine .idle .none 5) ∧
    (s.eng.state ≠ .draining → s.sweepBoundary = sweepBegins told)) ∧
  (∀ (s : State) (g : Geometry), s.eng.active = some g →
    (g.roundCount ≤ s.eng.round + 1 → s.endRound = s.sweepBoundary) ∧
    (s.eng.round + 1 < g.roundCount → s.eng.state = .draining → s.eng.stop = .roundEnd →
      s.endRound = s.stopEngine .idle .none 5) ∧
    (s.eng.round + 1 < g.roundCount → ¬(s.eng.state = .draining ∧ s.eng.stop = .roundEnd) →
      s.endRound = s.beginRound (s.eng.round + 1)))

/-- SLOT_RECORD_READ_DONE where no call follows (R6, R8, R22, R39, R41 to R45): PLAN FAULT with its event, the gate
mismatch, the skips, EMPTY, the pause, whose length counts from the slot's begin, and every slot that needs a trunk
and finds none READY: it ends NO TRUNK while one is TRAINING, else the engine halts. The record's open fields are
assumption 33, the gate's sampling at the end of the reads assumption 32. -/
def Obligations.SlotStartMayEndWithoutACall : Prop :=
  ∀ (s₀ s r e : State) (n : Nat), s = s₀.served → s.eng.phase = .reading n → r = s.engineReadsOn 4700 →
    e = r.endEngineRead →
    (∀ f, r.engineFinds (recheckSlot s.activeBase s.eng.slot) = .error f →
      exec .slotRecordReadDone s₀ =
        .next (e.report .planFault none 0 .none (BitVec.ofNat 16 s.eng.slot)
          (BitVec.ofNat 16 (f.code % 64 * 1024 + f.index % 1024))).endSlot) ∧
    (∀ start, r.engineFinds (recheckSlot s.activeBase s.eng.slot) = .ok start →
      (¬gateRuns s start.slot → exec .slotRecordReadDone s₀ = .next e.endSlot) ∧
      (gateRuns s start.slot →
        (∀ length, start.slot.work = .pause length →
          exec .slotRecordReadDone s₀ = .next { e with eng := { e.eng with phase := .pausing (length - n) } }) ∧
        (∀ p retries policy record, start.slot.work = .transfer p retries policy → start.point = some record →
          (record.station ≠ 63 →
            ((s.station record.station).state = .off → exec .slotRecordReadDone s₀ = .next e.endSlot) ∧
            ((s.station record.station).state = .absent → (s.station record.station).probeCountdown ≠ 0 →
              exec .slotRecordReadDone s₀ = .next e.endSlot)) ∧
          ((record.station = 63 ∨ (s.station record.station).state = .online ∨
              (s.station record.station).state = .suspect) →
            record.function ≠ .read → record.sendOnCommit = true → (s.point p).committed = false →
            exec .slotRecordReadDone s₀ = .next e.endSlot) ∧
          ((record.station = 63 ∨ (s.station record.station).state = .online ∨
                (s.station record.station).state = .suspect) ∧
              (record.function = .read ∨ record.sendOnCommit = false ∨ (s.point p).committed = true) ∨
            record.station ≠ 63 ∧ ((s.station record.station).state = .confirming ∨
              (s.station record.station).state = .absent ∧ (s.station record.station).probeCountdown = 0) →
            (onlyTraining s → exec .slotRecordReadDone s₀ = .next (noTrunkTold e).endSlot) ∧
            (noneUsable s → exec .slotRecordReadDone s₀ = .next (e.stopEngine .halted .noTrunks 8)))) ∧
        (start.slot.work = .openSlot → s.demands.any s.servable = false →
          exec .slotRecordReadDone s₀ = .next e.endSlot) ∧
        (start.slot.work = .sync ∨ start.slot.work = .openSlot ∧ s.demands.any s.servable = true →
          (onlyTraining s → exec .slotRecordReadDone s₀ = .next (noTrunkTold e).endSlot) ∧
          (noneUsable s → exec .slotRecordReadDone s₀ = .next (e.stopEngine .halted .noTrunks 8)))))

/-- SLOT_RECORD_READ_DONE where a call follows (R41, R44, R50, R52, R56, R90, R103): the record of a POINT, PROBE,
BROADCAST or SYNC transfer is set up, the point is marked IN FLIGHT for a POINT or BROADCAST, a probe's issue sets an
ABSENT station's countdown, and the first attempt begins on the station's current trunk, or on the other where that is
not READY. A transfer that has no use for attempts allowed and policy carries 1 and SAME (assumption 31), and that the
gate is sampled as the reads end is the model's choice (assumption 32). -/
def Obligations.SlotStartHandsOverATransfer : Prop :=
  ∀ (s₀ s r e : State) (n : Nat) (start : SlotStart), s = s₀.served → s.eng.phase = .reading n →
    r = s.engineReadsOn 4700 → e = r.endEngineRead →
    r.engineFinds (recheckSlot s.activeBase s.eng.slot) = .ok start → gateRuns s start.slot → someReady s →
    (∀ p retries policy record station, start.slot.work = .transfer p retries policy → start.point = some record →
      record.station ≠ 63 → station = s.station record.station →
      ((station.state = .online ∨ station.state = .suspect) →
        (record.function = .read ∨ record.sendOnCommit = false ∨ (s.point p).committed = true) →
        exec .slotRecordReadDone s₀ =
          .next (handedOver (inFlight e p)
            (transferRecord .point none p (some record) record.station (retries + 1) policy station.nextToggle)
            (firstOf s station.currentTrunk))) ∧
      (station.state = .absent → station.probeCountdown = 0 →
        exec .slotRecordReadDone s₀ =
          .next (handedOver (e.setStation record.station { station with probeCountdown := s.set.probeInterval.toNat })
            (transferRecord .probe none p (some record) record.station (retries + 1) policy false)
            (firstOf s station.currentTrunk))) ∧
      (station.state = .confirming →
        exec .slotRecordReadDone s₀ =
          .next (handedOver e (transferRecord .probe none p (some record) record.station (retries + 1) policy false)
            (firstOf s station.currentTrunk)))) ∧
    (∀ p retries policy record, start.slot.work = .transfer p retries policy → start.point = some record →
      record.station = 63 → (record.function = .read ∨ record.sendOnCommit = false ∨ (s.point p).committed = true) →
      exec .slotRecordReadDone s₀ =
        .next (handedOver (inFlight e p) (transferRecord .broadcast none p (some record) 63 1 .same false)
          (firstOf s .a))) ∧
    (start.slot.work = .sync →
      exec .slotRecordReadDone s₀ =
        .next (handedOver e (transferRecord .sync none 0 none 63 1 .same false) (firstOf s .a)))

/-- An OPEN slot's demand (R42, R121, R122, R123, R124, R128): a demand is eligible exactly when its station is 63,
ONLINE or SUSPECT; the first waiting eligible one of the list becomes IN FLIGHT, every other and its place unchanged,
and DEMAND RETRIES is sampled. When the read of its record ends (DEMAND_RECORD_READ_DONE), a failed check removes it with DEMAND DONE
outcome NONE, a demand no longer eligible or without a trunk returns to WAITING, and any other is handed over. That
the read's first registers are sampled as it begins is assumption 7, that the gate is sampled as the slot's reads end
assumption 32, and the 1 and SAME of a broadcast's record assumption 31. -/
def Obligations.OpenSlotServesTheFirstEligibleDemand : Prop :=
  (∀ (s : State) (d : Demand), s.eligible d = true ↔
    d.station = 63 ∨ (s.station d.station).state = .online ∨ (s.station d.station).state = .suspect) ∧
  (∀ (s₀ s r e : State) (n : Nat) (start : SlotStart) (before after : List Demand) (d : Demand), s = s₀.served →
    s.eng.phase = .reading n → r = s.engineReadsOn 4700 → e = r.endEngineRead →
    r.engineFinds (recheckSlot s.activeBase s.eng.slot) = .ok start → gateRuns s start.slot → someReady s →
    start.slot.work = .openSlot → s.demands = before ++ d :: after → (∀ b ∈ s.demands, b.inFlight = false) →
    (∀ b ∈ before, s.eligible b = false) → s.eligible d = true →
    exec .slotRecordReadDone s₀ =
      .next { e with
        demands := before ++ { d with inFlight := true } :: after
        traffic :=
          { e.traffic with
            engine := some
              (if s.set.pointCount.toNat ≤ d.point.toNat then [s.set.pointCount]
              else [s.set.pointCount, s.set.pointBase]) }
        eng := { e.eng with phase := .demandReading s.set.demandRetries.toNat } }) ∧
  (∀ (s₀ s r e : State) (n : Nat) (d : Demand), s = s₀.served → s.eng.phase = .demandReading n →
    r = s.engineReadsOn 4700 → e = r.endEngineRead → s.demandInFlight = some d →
    (∀ code, r.engineFinds (checkDemand d) = .error code →
      exec .demandRecordReadDone s₀ =
        .next (({ e with demands := s.demands.filter (fun d => !d.inFlight) }).report .demandDone none d.station .none
          (d.tag.setWidth 16) (BitVec.ofNat 16 (code % 64 * 1024 + d.point.toNat % 1024))).endSlot) ∧
    (∀ record, r.engineFinds (checkDemand d) = .ok record →
      (s.eligible d = false → exec .demandRecordReadDone s₀ = .next (waitingAgain e).endSlot) ∧
      (s.eligible d = true → onlyTraining s →
        exec .demandRecordReadDone s₀ = .next (noTrunkTold (waitingAgain e)).endSlot) ∧
      (s.eligible d = true → noneUsable s →
        exec .demandRecordReadDone s₀ = .next ((waitingAgain e).stopEngine .halted .noTrunks 8)) ∧
      (s.eligible d = true → someReady s → record.station = 63 →
        exec .demandRecordReadDone s₀ =
          .next (handedOver (inFlight e d.point)
            (transferRecord .broadcast (some d.tag) d.point (some record) 63 1 .same false) (firstOf s .a))) ∧
      (s.eligible d = true → someReady s → record.station ≠ 63 →
        exec .demandRecordReadDone s₀ =
          .next (handedOver (inFlight e d.point)
            (transferRecord .point (some d.tag) d.point (some record) record.station (n + 1) .alternate
              (s.station record.station).nextToggle)
            (firstOf s (s.station record.station).currentTrunk)))))

/-! ## Commands that read records, and plans -/

/-- SWITCH_PLAN, VALIDATE_PLAN, POINT_HOLD, POINT_RELEASE, POINT_COMMIT and DEMAND_POST as they are taken (R9, R14,
R15, R110, R119): their arguments are judged at once, and an accepted one holds the unit BUSY with copies of its
arguments while its owner reads. That BAD OPERAND carries detail 0 where a rule names none is read from R173
(assumption 16), and that a read's first register is sampled as it begins is assumption 7. -/
def Obligations.ReadingCommandsAreHeld : Prop :=
  ∀ (s₀ s : State), s = s₀.served → Ready s →
    (∀ bank base, (s.cmd.args.arg0 = 0 ∧ bank = .a ∧ base = s.set.planABase.toNat) ∨
        (s.cmd.args.arg0 = 1 ∧ bank = .b ∧ base = s.set.planBBase.toNat) →
      (s.eng.pending = none →
        exec .switchPlan s₀ = .next (reading (busyWith s 0x0010 (.validation true bank base)) [])) ∧
      (s.eng.pending ≠ none → exec .switchPlan s₀ = .next (completed s 0x0010 .pending 0)) ∧
      exec .validatePlan s₀ = .next (reading (busyWith s 0x0011 (.validation false bank base)) [])) ∧
    (2 < s.cmd.args.arg0.toNat → exec .switchPlan s₀ = .next (completed s 0x0010 .badOperand 0)) ∧
    (1 < s.cmd.args.arg0.toNat → exec .validatePlan s₀ = .next (completed s 0x0011 .badOperand 0)) ∧
    (s.cmd.args.arg0.toNat ≤ 255 ∧ s.cmd.args.arg0.toNat < s.set.pointCount.toNat → ∀ p,
      p = BitVec.ofNat 8 s.cmd.args.arg0.toNat →
      exec .pointHold s₀ = .next (reading (busyWith s 0x0030 (.pointRead .hold p)) [s.set.pointBase]) ∧
      exec .pointRelease s₀ = .next (reading (busyWith s 0x0031 (.pointRead .release p)) [s.set.pointBase]) ∧
      exec .pointCommit s₀ = .next (reading (busyWith s 0x0032 (.pointRead .commit p)) [s.set.pointBase])) ∧
    (255 < s.cmd.args.arg0.toNat ∨ s.set.pointCount.toNat ≤ s.cmd.args.arg0.toNat →
      exec .pointHold s₀ = .next (completed s 0x0030 .badOperand 1) ∧
      exec .pointRelease s₀ = .next (completed s 0x0031 .badOperand 1) ∧
      exec .pointCommit s₀ = .next (completed s 0x0032 .badOperand 1)) ∧
    (255 < s.cmd.args.arg0.toNat ∨ 1 < s.cmd.args.arg1.toNat ∨ 255 < s.cmd.args.arg2.toNat ∨
        255 < s.cmd.args.arg3.toNat →
      exec .demandPost s₀ = .next (completed s 0x0040 .badOperand 0)) ∧
    (s.cmd.args.arg0.toNat ≤ 255 → s.cmd.args.arg1.toNat ≤ 1 → s.cmd.args.arg2.toNat ≤ 255 →
      s.cmd.args.arg3.toNat ≤ 255 →
      (s.set.pointCount.toNat ≤ s.cmd.args.arg0.toNat →
        exec .demandPost s₀ =
          .next (completed s 0x0040 .badOperand (BitVec.ofNat 16 (13 * 1024 + s.cmd.args.arg0.toNat)))) ∧
      (s.cmd.args.arg0.toNat < s.set.pointCount.toNat →
        exec .demandPost s₀ =
          .next (reading
            (busyWith s 0x0040
              (.postCheck (BitVec.ofNat 8 s.cmd.args.arg0.toNat) (s.cmd.args.arg1.toNat == 1)
                (s.cmd.args.arg2.toNat) (BitVec.ofNat 8 s.cmd.args.arg3.toNat)))
            [s.set.pointBase])))

/-- SWITCH_PLAN_CANCEL, and SWITCH_PLAN with operand CANCEL (R17): a pending switch is removed and the result is DONE;
without one the result is NOT FOUND and nothing changes. No event is written. That the row SWITCH_PLAN_CANCEL acts as if
CMD ARG 0 held CANCEL, whatever it holds, is log entry 5. -/
def Obligations.CancelRemovesThePendingSwitch : Prop :=
  ∀ (s₀ s : State) (c : Instr), s = s₀.served → Ready s →
    c = .switchPlanCancel ∨ (c = .switchPlan ∧ s.cmd.args.arg0 = 2) →
    (s.eng.pending ≠ none →
      exec c s₀ = .next (completed { s with eng := { s.eng with pending := none } } 0x0010 .done 0)) ∧
    (s.eng.pending = none → exec c s₀ = .next (completed s 0x0010 .notFound 0))

/-- PLAN_VALIDATION_DONE (R9, R13, R14, R15, R16, R18): a failed check completes PLAN INVALID with its code and index;
a bank found valid by SWITCH PLAN is made active at once in IDLE and HALTED, PLAN SWITCHED being written, and becomes
the pending bank in RUNNING and DRAINING; VALIDATE PLAN changes neither bank. The fields of PLAN SWITCHED that R18
leaves open are assumption 33. A grant to the engine or the Command Unit fetches the word that its read asks for
next, with the registers that the read samples then, and moves nothing else (R169; assumption 7); the re-check of a slot,
the check of a demand and the held command judge the words so fetched. A read judges each word as it stood when it was
read: what is fetched is what stands, and once the read has ended no write is seen. Every read of the engine and of a
command comes to its end. -/
def Obligations.ValidationEndsWithItsResult : Prop :=
  (∀ (s₀ s r e : State) (args : CommandArgs) (forSwitch : Bool) (bank : Bank) (base : Nat), s = s₀.served →
    s.cmd.held = some { args, work := .validation forSwitch bank base } → r = s.commandReadsOn 4700 →
    e = r.endCommandRead →
    (∀ f, r.commandFinds (validateBank bank base) = .error f →
      exec .planValidationDone s₀ =
        .next (e.complete .planInvalid (BitVec.ofNat 16 (f.code % 64 * 1024 + f.index % 1024)))) ∧
    (∀ g, r.commandFinds (validateBank bank base) = .ok g →
      (forSwitch = false → exec .planValidationDone s₀ = .next (e.complete .done 0)) ∧
      (forSwitch = true → (s.eng.state = .idle ∨ s.eng.state = .halted) →
        exec .planValidationDone s₀ =
          .next ((({ e with eng := { e.eng with active := some g } }).report .planSwitched none 0 .none 0
            (BitVec.ofNat 16
              (bankField (s.eng.active.map (fun a : Geometry => a.bank)) * 16 + bankField (some bank)))).complete
                .done 0)) ∧
      (forSwitch = true → (s.eng.state = .running ∨ s.eng.state = .draining) →
        exec .planValidationDone s₀ =
          .next (({ e with eng := { e.eng with pending := some g } }).complete .done 1)))) ∧
  (∀ (read : Reading (Except CheckFailure Geometry)) (c : Settings) (m : Ram) (got : List Word),
    (∀ a, read.wants got = some a →
      read.value c m (got ++ [m.read a] ++ read.samples c (got ++ [m.read a])) = read.value c m got) ∧
    (read.wants got = none → read.samples c got = [] →
      ∀ (c' : Settings) (m' : Ram), read.value c' m' got = read.value c m got)) ∧
  (∀ (s : State) (got next : List Word) (a : Nat),
    (s.traffic.engine = some got → s.engineReading.wants got = some a →
      next = got ++ [s.ram.read a] ++ s.engineReading.samples s.set (got ++ [s.ram.read a]) →
      s.grant .engine = { s with traffic := { s.traffic with engine := some next }, lastGrant := .engine }) ∧
    (s.traffic.command = some got → s.commandReading.wants got = some a →
      next = got ++ [s.ram.read a] ++ s.commandReading.samples s.set (got ++ [s.ram.read a]) →
      s.grant .command = { s with traffic := { s.traffic with command := some next }, lastGrant := .command })) ∧
  (∀ (s : State) (got : List Word) (c : Settings),
    (∀ n, s.eng.phase = .reading n →
      s.engineReading.wants got = (recheckSlot s.activeBase s.eng.slot).wants got ∧
      s.engineReading.samples c got = (recheckSlot s.activeBase s.eng.slot).samples c got) ∧
    (∀ n d, s.eng.phase = .demandReading n → s.demandInFlight = some d →
      s.engineReading.wants got = (checkDemand d).wants got ∧
      s.engineReading.samples c got = (checkDemand d).samples c got) ∧
    (∀ args forSwitch bank base, s.cmd.held = some { args, work := .validation forSwitch bank base } →
      s.commandReading.wants got = (validateBank bank base).wants got ∧
      s.commandReading.samples c got = (validateBank bank base).samples c got) ∧
    (∀ args command p, s.cmd.held = some { args, work := .pointRead command p } →
      s.commandReading.wants got = (readPointHead p).wants got ∧
      s.commandReading.samples c got = (readPointHead p).samples c got) ∧
    (∀ args p high deadline tag, s.cmd.held = some { args, work := .postCheck p high deadline tag } →
      s.commandReading.wants got = (checkRecord p).wants got ∧
      s.commandReading.samples c got = (checkRecord p).samples c got)) ∧
  (∀ (α : Type) (s : State) (read : Reading α) (got : List Word),
    (s.traffic.engine = some got → s.engineFinds read = read.value s.set s.ram got) ∧
    (s.traffic.command = some got → s.commandFinds read = read.value s.set s.ram got)) ∧
  (∀ s : State, (s.engineReadsOn 4700).engineAsks = false ∧ (s.commandReadsOn 4700).commandAsks = false)

/-- The checks of plans and points (R2, R3, R4, R9 to R13, R21, R100, R123, R182, R183): validation and the re-check
of a slot end with the first check of Tables 1-7 to 1-9 that fails, in their order, with its code and index, or find
every check passed, and then keep the header, directory, slot and point values that the words hold; checks 13 to 19 of
a demand's record alike. A point record's read takes, word by word, the fields that its function uses and no others
(R100), and their order is assumption 31. A slot record's read takes word 0, then word 1 but for OPEN and SYNC (Table
10-8; what else is read where a check fails is assumption 35). That the address of a word wraps modulo 16384 is the
model's choice (assumption 22). A bank found valid, whatever the host wrote meanwhile, has a header in the ranges of
Table 1-5 and a directory that partitions slots 0 to total - 1 into rounds in ascending order. -/
def Obligations.ChecksPassOnlyLegalRecords : Prop :=
  (∀ (c : Settings) (m : Ram) (bank : Bank) (base : Nat),
    (validateBank bank base).value c m [] =
      match firstFailure (bankChecks c m base) with
      | some f => .error f
      | none => .ok (bankGeometry m bank base)) ∧
  (∀ (c : Settings) (m : Ram) (base i : Nat),
    (recheckSlot base i).value c m [] =
      match firstFailure (slotChecks (bankWord m base) i ++ slotPointChecks c m (bankWord m base) i) with
      | some f => .error f
      | none =>
        .ok
          { slot := slotHeld (bankWord m base) i
            point :=
              if slotKind (bankWord m base) i = 1 then some (pointHeld m c.pointBase.toNat (slotPoint (bankWord m base) i))
              else none }) ∧
  (∀ (c : Settings) (m : Ram) (d : Demand),
    (checkDemand d).value c m [] =
      match firstFailure (pointChecks c m 0 d.point.toNat) with
      | some f => .error f.code
      | none =>
        if (pointHeld m c.pointBase.toNat d.point.toNat).station = d.station then
          .ok (pointHeld m c.pointBase.toNat d.point.toNat)
        else .error 19) ∧
  (∀ (c : Settings) (m : Ram) (p : BitVec 8),
    (checkRecord p).value c m [] =
      match firstFailure (recordChecks m c.pointBase.toNat p.toNat) with
      | some f => .error f.code
      | none => .ok (pointHeld m c.pointBase.toNat p.toNat)) ∧
  (∀ (c : Settings) (m : Ram) (got : List Word) (bank : Bank) (base : Nat) (g : Geometry),
    (validateBank bank base).value c m got = .ok g →
    g.bank = bank ∧ g.base = base ∧ 1 ≤ g.roundCount ∧ g.roundCount ≤ 64 ∧ 10 ≤ g.roundPeriod ∧
    g.roundPeriod ≤ 65535 ∧ 4 ≤ g.answerWindow ∧ g.answerWindow ≤ 255 ∧ g.slotTotal ≤ 512 ∧
    g.directory.length = g.roundCount ∧ (g.directory.map (·.count)).sum = g.slotTotal ∧
    ∀ (r : Nat) (entry : DirectoryEntry), g.directory[r]? = some entry →
      entry.count ≤ 64 ∧ (1 ≤ entry.count → entry.first = ((g.directory.take r).map (·.count)).sum)) ∧
  (∀ (base i : Nat) (w0 w1 : Word),
    (readSlot base i).wants [] = some ((base + 72 + 2 * i) % 16384) ∧
    (readSlot base i).wants [w0] =
      (if w0.toNat % 8 = 2 ∨ w0.toNat % 8 = 3 then none else some ((base + 73 + 2 * i) % 16384)) ∧
    (readSlot base i).wants [w0, w1] = none) ∧
  (∀ (c : Settings) (m : Ram) (a : Nat) (w0 w1 w2 w3 w4 w5 w6 : Word) (offsets : List Nat) (words : List Word)
    (r : PointRecord),
    (w0.toNat % 8 = 1 ∧ offsets = [0, 1, 2, 3, 4] ∧ words = [w0, w1, w2, w3, w4] ∨
      w0.toNat % 8 = 2 ∧ offsets = [0, 1, 2, 5, 6] ∧ words = [w0, w1, w2, w5, w6] ∨
      w0.toNat % 8 = 3 ∧ offsets = [0, 1, 2, 3, 4, 5, 6] ∧ words = [w0, w1, w2, w3, w4, w5, w6]) →
    (readPoint a).value c m words = .ok r →
    (∀ i k, offsets[i]? = some k → (readPoint a).wants (words.take i) = some ((a + k) % 16384)) ∧
    (readPoint a).wants words = none ∧
    (w0.toNat % 8 = 1 ∧ r.function = .read ∨ w0.toNat % 8 = 2 ∧ r.function = .write ∨
      w0.toNat % 8 = 3 ∧ r.function = .exchange) ∧
    r.station = w0.toNat / 256 % 64 ∧ 1 ≤ r.station ∧ (r.station = 63 → r.function = .write) ∧
    r.report = w1.getLsbD 0 ∧ r.notify = w1.getLsbD 1 ∧ r.sendOnCommit = w1.getLsbD 2 ∧
    r.objectIndex.toNat = w1.toNat / 256 ∧
    (r.function ≠ .write →
      r.inLength = w2.toNat / 256 % 64 ∧ r.inPage0 = w3.toNat ∧ r.inPage1 = w4.toNat ∧
      1 ≤ r.inLength ∧ r.inLength ≤ 32 ∧ r.inPage0 + r.inLength ≤ 16384 ∧ r.inPage1 + r.inLength ≤ 16384) ∧
    (r.function ≠ .read →
      r.outLength = w2.toNat % 64 ∧ r.outPage0 = w5.toNat ∧ r.outPage1 = w6.toNat ∧
      1 ≤ r.outLength ∧ r.outLength ≤ 32 ∧ r.outPage0 + r.outLength ≤ 16384 ∧ r.outPage1 + r.outLength ≤ 16384))

/-! ## Stations -/

/-- STATION_ENABLE and STATION_DISABLE (R82, R83, R84, R96). -/
def Obligations.StationsEnterAndLeaveService : Prop :=
  ∀ (s₀ s : State) (n : Nat) (r : Station), s = s₀.served → Ready s → n = s.cmd.args.arg0.toNat → r = s.station n →
    (1 ≤ n → n ≤ 62 →
      (∀ k, (s.cmd.args.arg1 = 0 ∧ k = TrunkId.a) ∨ (s.cmd.args.arg1 = 1 ∧ k = .b) →
        (r.state = .off →
          exec .stationEnable s₀ =
            .next (completed
              ((s.setStation n
                { r with
                  state := .absent, preferredTrunk := k, currentTrunk := k, nextToggle := false, failureRun := 0
                  confirmCount := 0, probeCountdown := 0, lastCondition := 0, mismatch := false }).report
                .stationState none n .none 0 0x0103) 0x0020 .done 0)) ∧
        (r.state ≠ .off →
          exec .stationEnable s₀ = .next (completed s 0x0020 .refusedState (BitVec.ofNat 16 r.state.code)))) ∧
      (r.state = .off → exec .stationDisable s₀ = .next (completed s 0x0021 .done 0)) ∧
      (r.state ≠ .off →
        exec .stationDisable s₀ =
          .next (completed
            { (s.setStation n { r with state := .off, failureRun := 0, confirmCount := 0 }).report .stationState none n
                .none 0 (BitVec.ofNat 16 (r.state.code * 4096 + 4)) with
              xfer := s.xfer.map (fun x =>
                if x.station = n ∧ (x.kind = .point ∨ x.kind = .probe) then { x with detached := true } else x) }
            0x0021 .done 0))) ∧
    (n = 0 ∨ 62 < n ∨ 1 < s.cmd.args.arg1.toNat →
      exec .stationEnable s₀ = .next (completed s 0x0020 .badOperand 0)) ∧
    (n = 0 ∨ 62 < n → exec .stationDisable s₀ = .next (completed s 0x0021 .badOperand 0))

/-- The report of a POINT or PROBE transfer's end to the station table (R73, R78, R85 to R88, R92 to R94, R96): what
each outcome makes of the record, with the events of the change; a detached transfer and a station that is OFF change
nothing. An attributable answer's condition byte is stored, rising ATTENTION and FAULT flags being reported (R95). -/
def Obligations.HealthEvaluationFollowsTheOutcome : Prop :=
  ∀ (s : State) (x : Transfer) (o : OutcomeCode) (r : Station), 1 ≤ x.station → x.station ≤ 62 →
    r = s.station x.station →
    (x.detached = true ∨ r.state = .off → s.stationReport x o = s) ∧
    (x.detached = false → x.kind = .point → (r.state = .online ∨ r.state = .suspect) →
      (o = .good ∨ o = .goodRepeat →
        s.stationReport x o =
          stationMoves s x o
            { r with nextToggle := !r.nextToggle, currentTrunk := x.trunk, state := .online, failureRun := 0 } 1) ∧
      (o = .busy → s.stationReport x o = stationMoves s x o { r with state := .online, failureRun := 0 } 1) ∧
      (o ∈ [.noAnswer, .garbled, .wrongStation, .wrongToggle, .wrongLength] → ∀ run, run = min (r.failureRun + 1) 15 →
        (s.set.absentAfter.toNat ≤ run →
          s.stationReport x o = stationMoves s x o { r with state := .absent, failureRun := 0, probeCountdown := 0 } 1) ∧
        (run < s.set.absentAfter.toNat → s.set.suspectAfter.toNat ≤ run →
          s.stationReport x o = stationMoves s x o { r with state := .suspect, failureRun := run } 1) ∧
        (run < s.set.absentAfter.toNat → run < s.set.suspectAfter.toNat →
          s.stationReport x o = stationMoves s x o { r with failureRun := run } 1)) ∧
      (o = .restarted ∨ o = .outOfStep →
        s.stationReport x o =
          stationMoves s x o { r with state := .confirming, failureRun := 0, confirmCount := 0 } 1) ∧
      (o ∈ [.occupied, .echoFault, .noTrunk, .aborted] → s.stationReport x o = s)) ∧
    (x.detached = false → x.kind = .probe → (r.state = .absent ∨ r.state = .confirming) →
      (o = .good → (r.expectedIdentity = 0 ∨ x.heardIdentity = r.expectedIdentity) →
        (s.set.confirmCount.toNat ≤ r.confirmCount + 1 →
          s.stationReport x o =
            stationMoves s x o
              { r with
                heardIdentity := x.heardIdentity, mismatch := false, state := .online, confirmCount := 0, failureRun := 0
                nextToggle := x.reportedToggle } 1) ∧
        (r.confirmCount + 1 < s.set.confirmCount.toNat →
          s.stationReport x o =
            stationMoves s x o
              { r with
                heardIdentity := x.heardIdentity, mismatch := false, state := .confirming
                confirmCount := r.confirmCount + 1 } 1)) ∧
      (o = .good → r.expectedIdentity ≠ 0 → x.heardIdentity ≠ r.expectedIdentity → ∀ told : State,
        told = (if r.mismatch = true then s
          else s.report .identityMismatch (some x.trunk) x.station .good (x.point.setWidth 16) x.heardIdentity) →
        s.stationReport x o =
          stationMoves told x o
            { r with
              heardIdentity := x.heardIdentity, mismatch := true, confirmCount := 0, state := .absent
              probeCountdown := if r.state = .confirming then s.set.probeInterval.toNat else r.probeCountdown } 2) ∧
      (o ∈ [.noAnswer, .garbled, .wrongStation, .wrongLength] →
        s.stationReport x o =
          stationMoves s x o
            { r with
              confirmCount := 0, state := .absent
              probeCountdown := if r.state = .confirming then 0 else r.probeCountdown } 1) ∧
      (o ∈ [.occupied, .echoFault, .noTrunk, .aborted] → s.stationReport x o = s)) ∧
    (∀ c : BitVec 8,
      (x.detached = true ∨ r.state = .off → s.conditionReport x o c = s) ∧
      (x.detached = false → r.state ≠ .off → ∀ a b : State,
        a = (if c.getLsbD 5 = true ∧ r.lastCondition.getLsbD 5 = false then
            s.report .stationCondition (some x.trunk) x.station o (x.point.setWidth 16) (BitVec.ofNat 16 (256 + c.toNat))
          else s) →
        b = (if c.getLsbD 6 = true ∧ r.lastCondition.getLsbD 6 = false then
            a.report .stationCondition (some x.trunk) x.station o (x.point.setWidth 16) (BitVec.ofNat 16 (512 + c.toNat))
          else a) →
        s.conditionReport x o c = b.setStation x.station { r with lastCondition := c }))

/-! ## Points -/

/-- POINT_COMMAND_READ_DONE (R111, R112, R113, Table 5-3): an accepted HOLD sets HOLD and tells S; a RELEASE clears
HOLD and delivers a waiting answer; a COMMIT flips T and sets COMMITTED, or is refused while the point is IN FLIGHT. A
function the command does not accept gives BAD OPERAND with detail 2. The record is the one the command's read saw, at
POINT BASE + 8 × point modulo 16384 (assumption 22), and a RELEASE's POINT UPDATE carries the station of that record
(assumption 25). -/
def Obligations.PointCommandsActWhenTheirReadEnds : Prop :=
  (∀ (c : Settings) (m : Ram) (p : BitVec 8), (readPointHead p).value c m [] =
    (m.read ((c.pointBase.toNat + 8 * p.toNat) % 16384), m.read ((c.pointBase.toNat + 8 * p.toNat + 1) % 16384))) ∧
  ∀ (s₀ s r e : State) (args : CommandArgs) (command : PointCommand) (p : BitVec 8) (entry : PointEntry)
    (w0 w1 : Word), s = s₀.served → s.cmd.held = some { args, work := .pointRead command p } →
    r = s.commandReadsOn 4700 → e = r.endCommandRead → entry = s.point p →
    (w0, w1) = r.commandFinds (readPointHead p) →
    (command = .hold → (w0.toNat % 8 = 1 ∨ w0.toNat % 8 = 3) →
      exec .pointCommandReadDone s₀ =
        .next ((e.setPoint p { entry with hold := true }).complete .done (if entry.stable then 1 else 0))) ∧
    (command = .release → (w0.toNat % 8 = 1 ∨ w0.toNat % 8 = 3) →
      (entry.pending = false →
        exec .pointCommandReadDone s₀ = .next ((e.setPoint p { entry with hold := false }).complete .done 0)) ∧
      (entry.pending = true → ∀ u : State,
        u = e.setPoint p
          { entry with stable := !entry.stable, updates := entry.updates + 1, hold := false, pending := false } →
        (w1.getLsbD 1 = false → exec .pointCommandReadDone s₀ = .next (u.complete .done 1)) ∧
        (w1.getLsbD 1 = true →
          exec .pointCommandReadDone s₀ =
            .next ((u.report .pointUpdate none (w0.toNat / 256 % 64) .none (p.setWidth 16)
              (entry.updates + 1)).complete .done 1)))) ∧
    (command = .commit → (w0.toNat % 8 = 2 ∨ w0.toNat % 8 = 3) →
      (entry.inFlight = true → exec .pointCommandReadDone s₀ = .next (e.complete .inFlight 0)) ∧
      (entry.inFlight = false →
        exec .pointCommandReadDone s₀ =
          .next ((e.setPoint p { entry with transmit := !entry.transmit, committed := true }).complete .done
            (if entry.transmit then 0 else 1)))) ∧
    (command ≠ .commit → w0.toNat % 8 ≠ 1 → w0.toNat % 8 ≠ 3 →
      exec .pointCommandReadDone s₀ = .next (e.complete .badOperand 2)) ∧
    (command = .commit → w0.toNat % 8 ≠ 2 → w0.toNat % 8 ≠ 3 →
      exec .pointCommandReadDone s₀ = .next (e.complete .badOperand 2))

/-- The promises of R101, R103 and R116 over every command: while HOLD is set before and after, S and the update count
stay. Pin reset, and an ENGINE RESET that the Command Unit takes, under whatever row the host's write is listed
(assumption 6), set the whole entry back to Table 5-2. Every other command moves the count exactly when S flips, by one,
and leaves T while the point is IN FLIGHT; a write of ENGINE RESET that is not taken, the unit being BUSY or RESET
asserted, is such another. -/
def Obligations.StablePageMovesOnlyWithItsCount : Prop :=
  ∀ (c : Instr) (s t : State) (p : BitVec 8), exec c s = .next t →
    ((s.point p).hold = true → (t.point p).hold = true →
      (t.point p).stable = (s.point p).stable ∧ (t.point p).updates = (s.point p).updates) ∧
    (c = .pinReset ∨ (writesEngineReset c ∧ Ready s) →
      t.point p =
        { stable := false, transmit := false, hold := false, pending := false, committed := false, inFlight := false
          updates := 0, lastOutcome := .none, stampSweep := 0, stampRound := 0 }) ∧
    (c ≠ .pinReset → ¬(writesEngineReset c ∧ Ready s) →
      ((t.point p).stable ≠ (s.point p).stable → (t.point p).updates = (s.point p).updates + 1) ∧
      ((t.point p).stable = (s.point p).stable → (t.point p).updates = (s.point p).updates) ∧
      ((s.point p).inFlight = true → (t.point p).transmit = (s.point p).transmit))

/-! ## Demands -/

/-- DEMAND_POST_CHECK_DONE (R119, R120, R121): a failed record check gives BAD OPERAND with its code and the point;
then the first of Table 6-2 that applies gives the result, and an accepted demand joins after the last HIGH one or at
the tail. -/
def Obligations.PostIsJudgedWhenItsCheckEnds : Prop :=
  ∀ (s₀ s r e : State) (args : CommandArgs) (p : BitVec 8) (high : Bool) (deadline : Nat) (tag : BitVec 8),
    s = s₀.served → s.cmd.held = some { args, work := .postCheck p high deadline tag } →
    r = s.commandReadsOn 4700 → e = r.endCommandRead →
    (∀ code, r.commandFinds (checkRecord p) = .error code →
      exec .demandPostCheckDone s₀ =
        .next (e.complete .badOperand (BitVec.ofNat 16 (code % 64 * 1024 + p.toNat % 1024)))) ∧
    (∀ record, r.commandFinds (checkRecord p) = .ok record →
      (record.station ≠ 63 → (s.station record.station).state = .off →
        exec .demandPostCheckDone s₀ = .next (e.complete .refusedState 0)) ∧
      ((record.station = 63 ∨ (s.station record.station).state ≠ .off) →
        (8 ≤ s.demands.length → exec .demandPostCheckDone s₀ = .next (e.complete .queueFull 8)) ∧
        (s.demands.length < 8 → ∀ samePoint sameTag,
          (samePoint = true ↔ ∃ d ∈ s.demands, d.point = p) → (sameTag = true ↔ ∃ d ∈ s.demands, d.tag = tag) →
          (samePoint = true ∨ sameTag = true →
            exec .demandPostCheckDone s₀ =
              .next (e.complete .duplicate
                (BitVec.ofNat 16 ((if samePoint then 1 else 0) + if sameTag then 2 else 0)))) ∧
          (samePoint = false → sameTag = false → ∀ d : Demand,
            d = { point := p, station := record.station, high, deadline, tag, inFlight := false } →
            (high = true →
              exec .demandPostCheckDone s₀ =
                .next (({ e with
                  demands := s.demands.takeWhile (fun e : Demand => e.high) ++ [d] ++
                    s.demands.dropWhile (fun e : Demand => e.high) }).complete .done
                    (BitVec.ofNat 16 (s.demands.length + 1)))) ∧
            (high = false →
              exec .demandPostCheckDone s₀ =
                .next (({ e with demands := s.demands ++ [d] }).complete .done
                  (BitVec.ofNat 16 (s.demands.length + 1))))))))

/-- DEMAND_CANCEL (R127, R128): a waiting demand with the tag leaves with DEMAND DONE CANCELLED; one IN FLIGHT answers
LATE; no demand with the tag NOT FOUND; a tag above 255 BAD OPERAND. -/
def Obligations.CancelRemovesAWaitingDemand : Prop :=
  ∀ (s₀ s : State), s = s₀.served → Ready s → DemandListInv s.demands →
    (255 < s.cmd.args.arg0.toNat → exec .demandCancel s₀ = .next (completed s 0x0041 .badOperand 0)) ∧
    (s.cmd.args.arg0.toNat ≤ 255 →
      ((∀ d ∈ s.demands, d.tag.toNat ≠ s.cmd.args.arg0.toNat) →
        exec .demandCancel s₀ = .next (completed s 0x0041 .notFound 0)) ∧
      (∀ d ∈ s.demands, d.tag.toNat = s.cmd.args.arg0.toNat →
        (d.inFlight = true → exec .demandCancel s₀ = .next (completed s 0x0041 .late 0)) ∧
        (d.inFlight = false →
          exec .demandCancel s₀ =
            .next (completed
              (({ s with demands := s.demands.filter (fun e => e.tag != d.tag) }).report .demandDone none d.station
                .cancelled (d.tag.setWidth 16) (BitVec.ofNat 16 d.point.toNat)) 0x0041 .done 0))))

/-! ## Trunks -/

/-- TRUNK_TRAIN and TRUNK_OFF (R133, R134, R135, R144): held while an attempt is in flight on the named trunk;
otherwise they take effect at once, with the old state's code as detail. A burst is cut off where it stands, and then
only the end of what the line heard moves with it, to this moment (assumption 23). -/
def Obligations.TrunkCommandsTakeEffectOrAreHeld : Prop :=
  ∀ (s₀ s : State), s = s₀.served → Ready s →
    (1 < s.cmd.args.arg0.toNat →
      exec .trunkTrain s₀ = .next (completed s 0x0050 .badOperand 0) ∧
      exec .trunkOff s₀ = .next (completed s 0x0051 .badOperand 0)) ∧
    (∀ (k : TrunkId) (old cut : Trunk), (s.cmd.args.arg0 = 0 ∧ k = .a) ∨ (s.cmd.args.arg0 = 1 ∧ k = .b) →
      old = s.trunk k →
      ((∃ n, old.burst = .sending n) ∧ cut = silencedNow old ∨ (∀ n, old.burst ≠ .sending n) ∧ cut = old) →
      (∀ x, s.xfer = some x → x.trunk = k →
        exec .trunkTrain s₀ = .next (busyWith s 0x0050 (.trunkHeld .train k)) ∧
        exec .trunkOff s₀ = .next (busyWith s 0x0051 (.trunkHeld .off k))) ∧
      ((∀ x, s.xfer = some x → x.trunk ≠ k) →
        exec .trunkTrain s₀ =
          .next (completed
            ((if old.state = .training then s
              else s.report .trunkState (some k) 0 .none 0 (BitVec.ofNat 16 (old.state.code * 4096 + 0x101))).setTrunk k
              { cut with
                state := .training, faults := 0, training := 0, timer := some (s.set.trainingTimeout.toNat * 10000)
                burst := .waiting, burstDue := some (s.time + 1000) })
            0x0050 .done (BitVec.ofNat 16 old.state.code)) ∧
        (old.state = .off → exec .trunkOff s₀ = .next (completed s 0x0051 .done 0)) ∧
        (old.state ≠ .off →
          exec .trunkOff s₀ =
            .next (completed
              ((s.report .trunkState (some k) 0 .none 0 (BitVec.ofNat 16 (old.state.code * 4096 + 2))).setTrunk k
                { cut with state := .off, timer := none, burstDue := none, burst := .none })
              0x0051 .done (BitVec.ofNat 16 old.state.code)))))

/-- TRAINING_BURST_DUE and BURST_TRANSMIT_START (R136, R132): while TRAINING a burst falls due every 1000 µs, one that
finds another waiting or on the line being passed over; a waiting burst goes out for 120 bit times once the gap has
passed and the line is quiet. The events happen at their due moments (assumption 3), an overdue one at once
(assumption 24); the line's gap and quiet are counted from the frame's end (assumption 23). -/
def Obligations.BurstsFallDueAndWaitForQuiet : Prop :=
  (∀ (s₀ s u : State) (k : TrunkId) (due : TimeTag), s = s₀.served → (s.trunk k).state = .training →
    (s.trunk k).burstDue = some due →
    ((due - s.time).toNat < 2147483648 ∧ u = s.elapse (due - s.time).toNat ∨
      2147483648 ≤ (due - s.time).toNat ∧ u = s.elapse 0) →
    exec (.trainingBurstDue k) s₀ =
      .next (u.setTrunk k
        { u.trunk k with
          burstDue := some (due + 1000)
          burst := if (s.trunk k).burst = .none then .waiting else (u.trunk k).burst })) ∧
  (∀ (s₀ s u : State) (k : TrunkId) (d : Nat), s = s₀.served → (s.trunk k).burst = .waiting →
    u = s.elapse (max (s.gapLeft k) (s.quietLeft k)) → d = u.bitTimes 120 →
    exec (.burstTransmitStart k) s₀ =
      .next (u.setTrunk k
        { u.trunk k with
          burst := .sending d, overlapped := false, gapHold := max (u.trunk k).gapHold (d + 16)
          quietHold := max (u.trunk k).quietHold (d + 16) }))

/-- BURST_ECHO_END, TRAINING_TIMER_EXPIRY and LINE_ACTIVITY (R132, R137, R138, R144): an echo heard bit time by bit
time as the burst was sent counts and the fourth in a row makes the line READY; a bit time heard otherwise or not at
all, or activity from another talker during the burst, sets the count to 0. The timer's expiry takes the line to FAILED
with its count kept. Activity breaks the quiet of its own line only, and a frame moves its gap when it ends. The time still
missing passes with the event (assumption 3); what a cut burst and activity leave of gap and quiet is assumption 23,
the frame's record assumption 29, and that what is heard of an echo is the row's operand assumption 26. -/
def Obligations.TrainingEndsReadyOrFailed : Prop :=
  (∀ (s₀ s u : State) (k : TrunkId) (left : Nat) (b : Trunk), s = s₀.served → (s.trunk k).burst = .sending left →
    u = s.elapse left → b = { u.trunk k with burst := .none, lastFrame := frameOnLine burstWords } →
    ∀ heard : List BitTime,
    ((∃ i < 120, heard[i]? ≠ (frameOnLine burstWords)[i]?) ∨ (u.trunk k).overlapped = true →
      exec (.burstEchoEnd k heard) s₀ = .next (u.setTrunk k { b with training := 0 })) ∧
    ((∀ i < 120, heard[i]? = (frameOnLine burstWords)[i]?) → (u.trunk k).overlapped = false → b.training < 3 →
      exec (.burstEchoEnd k heard) s₀ = .next (u.setTrunk k { b with training := b.training + 1 })) ∧
    ((∀ i < 120, heard[i]? = (frameOnLine burstWords)[i]?) → (u.trunk k).overlapped = false → 3 ≤ b.training →
      exec (.burstEchoEnd k heard) s₀ =
        .next ((u.report .trunkState (some k) 0 .none 0 0x1203).setTrunk k
          { b with training := 4, state := .ready, faults := 0, timer := none, burstDue := none }))) ∧
  (∀ (s₀ s u : State) (k : TrunkId) (left : Nat) (cut : Trunk), s = s₀.served → (s.trunk k).state = .training →
    (s.trunk k).timer = some left → u = s.elapse left →
    ((∃ n, (s.trunk k).burst = .sending n) ∧ cut = silencedNow (u.trunk k) ∨
      (∀ n, (s.trunk k).burst ≠ .sending n) ∧ cut = u.trunk k) →
    exec (.trainingTimerExpiry k) s₀ =
      .next ((u.report .trunkState (some k) 0 .none 0 0x1304).setTrunk k
        { cut with state := .failed, timer := none, burstDue := none, burst := .none })) ∧
  (∀ (s₀ s : State) (k : TrunkId) (hit : Bool), s = s₀.served → (hit = true ↔ transmits s k) →
    (∀ bits : Nat, exec (.lineActivity { trunk := k, activity := .frame bits }) s₀ =
      .next (s.setTrunk k
        { s.trunk k with
          gapHold := if bits = 0 then max (s.trunk k).gapHold 16 else (s.trunk k).gapHold
          quietHold := max (s.trunk k).quietHold (s.bitTimes bits + 16)
          frameLeft := max (s.trunk k).frameLeft (s.bitTimes bits)
          overlapped := (s.trunk k).overlapped || hit })) ∧
    exec (.lineActivity { trunk := k, activity := .noise }) s₀ =
      .next (s.setTrunk k
        { s.trunk k with
          quietHold := max (s.trunk k).quietHold 16, overlapped := (s.trunk k).overlapped || hit }))

/-! ## Attempts and transfers -/

/-- CALL_TRANSMIT_START and OCCUPANCY_GUARD_EXPIRY (R55, R56, R57, R132): a line that falls quiet within the guard,
counted from the end of the gap, gets the call, whose header is laid out from the transfer as Table 10-2 says and
which occupies the line for 72 + 16n bit times; one that does not ends the attempt OCCUPIED with no bit sent. The
guard is sampled as the gap ends, and lapses when it runs out before the line is quiet; the gap counts from the last
frame that has ended, and a frame still on the line moves it only if it ends before the gap has passed; a guard that runs out while
the line stays quiet, and a quiet that comes after the guard, do nothing. The time still missing passes with the event
(assumption 3), gap and quiet count as assumption 23 says, and where quiet and guard come in one moment either event
may be the one sent (assumption 28). -/
def Obligations.CallGoesOutOrFindsTheLineOccupied : Prop :=
  (∀ (s₀ s u : State) (x : Transfer) (d gap quiet : Nat), s = s₀.served → s.xfer = some x → gap = s.gapLeft x.trunk →
    quiet = s.quietLeft x.trunk →
    (x.phase = .gap ∧ quiet ≤ gap + s.set.occupancyGuard.toNat ∧ u = s.elapse (max gap quiet) ∨
      (∃ left, x.phase = .occupancy left false ∧ quiet ≤ left) ∧ u = s.elapse quiet) →
    d = u.bitTimes (72 + 16 * x.callLength) →
    exec .callTransmitStart s₀ =
      .next { u.setTrunk x.trunk
          { u.trunk x.trunk with
            overlapped := false, gapHold := max (u.trunk x.trunk).gapHold (d + 16)
            quietHold := max (u.trunk x.trunk).quietHold (d + 16) } with
        xfer := some
          { x with
            phase := .sending 0 x.header0 x.header1 x.callLength
              (if x.kind = .sync then
                [s.eng.sweep, BitVec.ofNat 16 s.eng.round, u.time.extractLsb' 0 16, u.time.extractLsb' 16 16]
              else []) } }) ∧
  (∀ (s₀ s : State) (x : Transfer) (gap quiet guard : Nat), s = s₀.served → s.xfer = some x →
    gap = s.gapLeft x.trunk → quiet = s.quietLeft x.trunk → guard = s.set.occupancyGuard.toNat →
    (x.phase = .gap → gap < quiet → gap + guard ≤ quiet → ∀ (u : State) (y : Transfer), u = s.elapse (gap + guard) →
      u.xfer = some y → exec .occupancyGuardExpiry s₀ = .next (u.endAttempt y .occupied none)) ∧
    (∀ left lapsed, x.phase = .occupancy left lapsed → (lapsed = true ∨ 0 < quiet ∧ left ≤ quiet) →
      ∀ (u : State) (y : Transfer), u = s.elapse left → u.xfer = some y →
      exec .occupancyGuardExpiry s₀ = .next (u.endAttempt y .occupied none)) ∧
    (x.phase = .gap ∧ (quiet ≤ gap ∨ quiet < gap + guard) ∨
        (∃ left, x.phase = .occupancy left false ∧ (quiet = 0 ∨ quiet < left)) →
      exec .occupancyGuardExpiry s₀ = .next s) ∧
    (x.phase = .gap ∧ gap + guard < quiet ∨
        (∃ left lapsed, x.phase = .occupancy left lapsed ∧ (lapsed = true ∨ left < quiet)) →
      exec .callTransmitStart s₀ = .next s)) ∧
  (∀ (s : State) (x : Transfer) (n gap quiet guard : Nat), s.xfer = some x → gap = s.gapLeft x.trunk →
    quiet = s.quietLeft x.trunk → guard = s.set.occupancyGuard.toNat →
    (x.phase = .gap → n < gap → (s.elapse n).xfer = some x) ∧
    (x.phase = .gap → gap ≤ n → ∃ lapsed,
      (s.elapse n).xfer = some { x with phase := .occupancy (guard - (n - gap)) lapsed } ∧
        (lapsed = true ↔ gap + guard < quiet ∧ gap + guard ≤ n)) ∧
    (∀ left lapsed, x.phase = .occupancy left lapsed → ∃ lapsed',
      (s.elapse n).xfer = some { x with phase := .occupancy (left - n) lapsed' } ∧
        (lapsed' = true ↔ lapsed = true ∨ left < quiet ∧ left ≤ n))) ∧
  (∀ (s : State) (k : TrunkId) (left frame : Nat), left = (s.trunk k).gapHold - (16 - s.bitTimes 8) →
    frame = (s.trunk k).frameLeft →
    (frame = 0 ∨ left ≤ frame → s.gapLeft k = left) ∧
    (0 < frame → frame < left → s.gapLeft k = max left (frame + s.bitTimes 8)) ∧
    s.quietLeft k = (s.trunk k).quietHold - (16 - s.bitTimes 8)) ∧
  (∀ (x : Transfer), x.station < 64 →
    (∀ r, x.kind = .point ∨ x.kind = .broadcast → x.values = some r → r.outLength < 64 →
      x.callLength = (if r.function = .read then 0 else r.outLength) ∧
      x.header0.toNat =
        x.station * 1024 + (match r.function with | .read => 1 | .write => 2 | .exchange => 3) * 128 +
          (if x.toggle then 64 else 0) ∧
      x.header1.toNat = r.objectIndex.toNat * 256 + x.callLength) ∧
    (x.kind = .probe → x.toggle = false → x.callLength = 0 ∧ x.header0.toNat = x.station * 1024 + 4 * 128 ∧ x.header1 = 0) ∧
    (x.kind = .sync → x.toggle = false → x.callLength = 4 ∧ x.header0.toNat = x.station * 1024 + 5 * 128 ∧ x.header1 = 4))

/-- CALL_ECHO_END and the call on the line (R57, R58, R59, R69, R70, R115): with a bit time of the frame heard
otherwise than it was sent or not at all, from the first preamble bit to the last CRC bit, or another talker's activity
during the call, the attempt ends ECHO FAULT; clean, a broadcast or SYNC ends SENT and any other call opens
the window of the active bank's geometry. Payload word i is read from outgoing page T as bit time 56 + 16i comes, no
earlier and once. The rest of the frame's time passes with the event (assumption 3), the bit times are counted as
assumption 18 says, `lastFrame` is the model's record of the frame (assumption 29), and what is heard of the echo is the row's operand
(assumption 26). -/
def Obligations.EchoDecidesTheAttempt : Prop :=
  (∀ (s₀ s u sent : State) (x y : Transfer) (g : Geometry) (el el' n : Nat) (h0 h1 h0' h1' : Word)
    (pl payload : List Word), s = s₀.served → s.xfer = some x → s.eng.active = some g →
    x.phase = .sending el h0 h1 n pl → u = s.elapse (s.bitTimes (72 + 16 * n) - el) → u.xfer = some y →
    y.phase = .sending el' h0' h1' n payload →
    sent = u.setTrunk x.trunk { u.trunk x.trunk with lastFrame := frameOnLine (frameWords h0' h1' payload) } →
    ∀ frame heard : List BitTime, frame = frameOnLine (frameWords h0' h1' payload) →
    ((∃ i < frame.length, heard[i]? ≠ frame[i]?) ∨ (u.trunk x.trunk).overlapped = true →
      exec (.callEchoEnd heard) s₀ = .next (sent.endAttempt y .echoFault none)) ∧
    ((∀ i < frame.length, heard[i]? = frame[i]?) → (u.trunk x.trunk).overlapped = false →
      (x.kind = .broadcast ∨ x.kind = .sync →
        exec (.callEchoEnd heard) s₀ = .next (sent.endAttempt y .sent none)) ∧
      (x.kind = .point ∨ x.kind = .probe →
        exec (.callEchoEnd heard) s₀ =
          .next { sent with xfer := some { x with phase := .window g.answerWindow } }))) ∧
  (∀ (s : State) (x : Transfer) (el n d : Nat) (h0 h1 : Word) (pl : List Word), s.xfer = some x →
    x.phase = .sending el h0 h1 n pl → ∃ words : List Word,
      (s.elapse d).xfer = some { x with phase := .sending (el + d) h0 h1 n (pl ++ words) } ∧
      pl.length + words.length ≤ max n pl.length ∧
      (∀ i < n, pl.length ≤ i →
        (i < pl.length + words.length ↔ (56 + 16 * i) * s.halfMicros ≤ 2 * (el + d))) ∧
      (nothingWaits s →
        (s.elapse d).ram = s.ram ∧
        ∀ r page, x.values = some r → page = (if (s.point x.point).transmit then r.outPage1 else r.outPage0) →
          ∀ i < words.length, words[i]? = some (s.ram.read ((page + (pl.length + i)) % 16384))))

/-- ANSWER_SYNC_DETECTED (R59, R60, R61, R104, R132): while the window has time left the reception begins, the line is
active for the answer's length, and the frame ends with the reception, at most 560 bit times after the marker, what
goes on being activity (assumption 23); for a READ or EXCHANGE point PENDING is cleared and the words go to incoming
page 1 - S, for any other call nowhere. Once the window has run out the answer is heard on the line and nothing else.
That the marker is detected at its first bit time is read from R59 (assumption 18), and the line's bit times are the
command's operand (assumption 19). -/
def Obligations.SyncMarkerBeginsTheReception : Prop :=
  ∀ (s₀ s on : State) (x : Transfer) (line : List BitTime) (f : AnswerFrame) (left d ends : Nat), s = s₀.served →
    s.xfer = some x → x.phase = .window left → f = receiveFrame line →
    d = s.bitTimes (8 + 16 * f.words.length + f.tailBits) →
    ends = (if left = 0 then d else s.bitTimes (8 + min (16 * f.words.length + f.tailBits) 560)) →
    on = s.setTrunk x.trunk
      { s.trunk x.trunk with
        quietHold := max (s.trunk x.trunk).quietHold (d + 16), frameLeft := max (s.trunk x.trunk).frameLeft ends } →
    (left = 0 → exec (.answerSyncDetected line) s₀ = .next on) ∧
    (0 < left →
      (∀ r, x.kind = .point → x.values = some r → r.function ≠ .write →
        exec (.answerSyncDetected line) s₀ =
          .next { on.setPoint x.point { s.point x.point with pending := false } with
            xfer := some
              { x with
                phase := .receiving 0 f (some (if (s.point x.point).stable then r.inPage0 else r.inPage1)) 0 } }) ∧
      ((x.kind ≠ .point ∨ ∀ r, x.values = some r → r.function = .write) →
        exec (.answerSyncDetected line) s₀ = .next { on with xfer := some { x with phase := .receiving 0 f none 0 } }))

/-- ANSWER_WINDOW_CLOSE, ANSWER_RECEIVED and the reception (R59, R60, R61, R62, R63, R64): a window that closes ends
the attempt NO ANSWER; a reception ends with the frame, or 560 bit times after the sync marker, and the attempt ends
with the outcome of the classification, its condition byte going to the station table where the answer can be
attributed. Payload word i is stored at the page chosen at the reception start, up to the in length, as soon as it has
been received, and no other word. The time still missing passes with the event (assumption 3), the marker is counted
from its first bit time (assumption 18), and which words of a cut-off answer are payload is assumption 17. -/
def Obligations.AnswerOrItsAbsenceEndsTheAttempt : Prop :=
  (∀ (s₀ s u : State) (x : Transfer) (left : Nat), s = s₀.served → s.xfer = some x → x.phase = .window left →
    u = s.elapse left →
    exec .answerWindowClose s₀ = .next (u.endAttempt { x with phase := .window 0 } .noAnswer none)) ∧
  (∀ (s₀ s u : State) (x y : Transfer) (el n : Nat) (f : AnswerFrame) (page : Option Nat), s = s₀.served →
    s.xfer = some x → x.phase = .receiving el f page n →
    u = s.elapse (s.bitTimes (8 + min (16 * f.words.length + f.tailBits) 560) - el) → u.xfer = some y →
    (x.kind ≠ .probe →
      exec .answerReceived s₀ = .next (u.endAttempt y (classify y f).outcome (classify y f).condition)) ∧
    (x.kind = .probe → (classify y f).condition = none →
      exec .answerReceived s₀ = .next (u.endAttempt y (classify y f).outcome none)) ∧
    (x.kind = .probe → (classify y f).condition ≠ none →
      exec .answerReceived s₀ =
        .next (u.endAttempt
          { y with
            heardIdentity := (answerPayload f).getD 0 x.heardIdentity
            reportedToggle :=
              if (answerPayload f).length < 2 then x.reportedToggle else ((answerPayload f).getD 1 0).getLsbD 0 }
          (classify y f).outcome (classify y f).condition))) ∧
  (∀ (s : State) (x : Transfer) (left n : Nat), s.xfer = some x → x.phase = .window left →
    (s.elapse n).xfer = some { x with phase := .window (left - n) }) ∧
  (∀ (s : State) (x : Transfer) (el k d most : Nat) (f : AnswerFrame) (page : Option Nat), s.xfer = some x →
    x.phase = .receiving el f page k → most = min (answerPayload f).length x.inLength → ∃ k',
      (s.elapse d).xfer = some { x with phase := .receiving (el + d) f page k' } ∧ k ≤ k' ∧ k' ≤ max k most ∧
      (∀ i < most, k ≤ i → (i < k' ↔ (40 + 16 * (i + 1)) * s.halfMicros ≤ 2 * (el + d))) ∧
      (page = none → (s.elapse d).ram = s.ram) ∧
      ∀ a, page = some a → nothingWaits s → RamCanonical s → a + x.inLength ≤ 16384 →
        (∀ i, k ≤ i → i < k' → (s.elapse d).ram.read (a + i) = (answerPayload f).getD i 0) ∧
        ∀ b < 16384, b < a + k ∨ a + k' ≤ b → (s.elapse d).ram.read b = s.ram.read b)

/-- The words of a frame, the line code and the classification of a received answer (R60, R62, R63, R136, R178 to R180,
Tables 3-3, 10-4 and 10-5). A frame's words are its header, its payload and the CRC word over those, which takes their
bits, most significant first, through a register preset to FFFFh with the generator x^16 + x^12 + x^5 + 1; a training
burst's are a header to station 0 and the fixed pattern. A frame on the line is its preamble, its sync marker and its
words, each bit with a transition at its boundary and one in its middle for a 1; a receiver makes of the bit times
after the marker exactly the words sent. An answer is classified first by the faults of R60, fewer than three words
among them, then by the station, then by the steps of a point call or of a probe in their order. -/
def Obligations.AnswersAreClassifiedInOrder : Prop :=
  (∀ (h0 h1 : Word) (payload : List Word),
    frameWords h0 h1 payload = h0 :: h1 :: (payload ++ [crc16 (h0 :: h1 :: payload)])) ∧
  (∀ words : List Word,
    crc16 words =
      (words.flatMap (fun w => (List.range 16).map (fun i => w.getLsbD (15 - i)))).foldl
        (fun (register : Word) bit => if bit = register.getLsbD 15 then register <<< 1 else (register <<< 1) ^^^ 0x1021)
        0xFFFF) ∧
  burstWords = [0x0000, 0x0003, 0x5A3C, 0x96C3, 0x0FF0, crc16 [0x0000, 0x0003, 0x5A3C, 0x96C3, 0x0FF0]] ∧
  (∀ (words : List Word) (rest : List BitTime), (∀ b ∈ rest.head?, b.boundary = false) →
    receiveFrame (wordsOnLine words ++ rest) = { words, tailBits := 0, violation := false }) ∧
  (∀ words : List Word,
    (frameOnLine words).length = 24 + 16 * words.length ∧
    (∀ i < 16, (frameOnLine words)[i]? = some { boundary := true, middle := decide (i % 2 = 0), stray := false }) ∧
    (∀ i < 8, (frameOnLine words)[16 + i]? =
      some { boundary := decide (i = 0 ∨ i = 4), middle := false, stray := false }) ∧
    ∀ i j (w : Word), words[i]? = some w → j < 16 →
      (frameOnLine words)[24 + 16 * i + j]? = some { boundary := true, middle := w.getLsbD (15 - j), stray := false }) ∧
  (∀ level : Bool, lineLevels level syncMarker = List.replicate 8 (!level) ++ List.replicate 8 level) ∧
  (∀ (x : Transfer) (f : AnswerFrame), f.words.length < 3 → answerGarbled f = true) ∧
  (∀ (x : Transfer) (f : AnswerFrame), answerGarbled f = true →
    classify x f = { outcome := .garbled, condition := none }) ∧
  (∀ (x : Transfer) (f : AnswerFrame) (w0 w1 : Word) (rest : List Word), f.words = w0 :: w1 :: rest → f.tailBits < 16 →
    (answerGarbled f = true ↔
      f.violation = true ∨ f.tailBits ≠ 0 ∨ rest = [] ∨ 35 < f.words.length ∨
        w1.toNat / 1024 ≠ rest.length - 1 ∨ some (crc16 f.words.dropLast) ≠ f.words.getLast?) ∧
    (answerGarbled f = false → w0.toNat / 1024 ≠ x.station →
      classify x f = { outcome := .wrongStation, condition := none }) ∧
    (answerGarbled f = false → w0.toNat / 1024 = x.station → x.kind = .probe →
      classify x f =
        { outcome := if w1.toNat / 1024 = 2 then .good else .wrongLength, condition := some (w0.extractLsb' 0 8) }) ∧
    (answerGarbled f = false → w0.toNat / 1024 = x.station → x.kind ≠ .probe →
      classify x f =
        { outcome :=
            if w0.getLsbD 4 then .restarted
            else if w0.getLsbD 9 ≠ x.toggle then .wrongToggle
            else if w0.getLsbD 7 then .busy
            else if w1.toNat / 1024 ≠ x.inLength then .wrongLength
            else if w0.getLsbD 3 then (if x.attempts = 1 then .outOfStep else .goodRepeat)
            else .good
          condition := some (w0.extractLsb' 0 8) }))

/-- The end of an attempt (R53, R54, R65, R66, R69, R70, R135, R139): the report to the trunk, whose fault count may
reach the limit; a held trunk command; then a further attempt by the policy of Table 3-2, trunk B's turn, or the
transfer's end with this outcome, NO TRUNK, or SENT. The order is read from R65, R64, R135 and R66 (assumption 15), and
that the further attempt begins in the same step, so that no ABORT comes between, is assumption 36. -/
def Obligations.AttemptEndIsReportedThenDecided : Prop :=
  (∀ (s : State) (x : Transfer) (o : OutcomeCode) (k : Trunk), k = s.trunk x.trunk → TrunkInv k → k.state = .ready →
    (o ≠ .occupied → o ≠ .echoFault → s.lineReport x o = s.setTrunk x.trunk { k with faults := 0 }) ∧
    (o = .occupied ∨ o = .echoFault →
      (k.faults + 1 < s.set.trunkFaultLimit.toNat →
        s.lineReport x o = s.setTrunk x.trunk { k with faults := k.faults + 1 }) ∧
      (s.set.trunkFaultLimit.toNat ≤ k.faults + 1 →
        s.lineReport x o =
          (s.report .trunkState (some x.trunk) x.station o (x.point.setWidth 16) 0x2305).setTrunk x.trunk
            { k with faults := k.faults + 1, state := .failed }))) ∧
  (∀ (s m : State) (x z : Transfer) (o : OutcomeCode) (condition : Option (BitVec 8)),
    z = { x with outcome := o, broadcastSent := x.broadcastSent || o == .sent } →
    m = (match condition with
      | none => s.lineReport z o
      | some c => (s.lineReport z o).conditionReport z o c) →
    (noneHeldFor s x.trunk → s.endAttempt x o condition = m.afterAttempt z o) ∧
    (∀ args command, s.cmd.held = some { args, work := .trunkHeld command x.trunk } →
      s.endAttempt x o condition = (m.trunkEffect command x.trunk).afterAttempt z o)) ∧
  (∀ (m : State) (z : Transfer) (o : OutcomeCode),
    (z.kind = .point ∨ z.kind = .probe →
      (o ∈ [.noAnswer, .garbled, .wrongStation, .wrongToggle, .wrongLength, .occupied, .echoFault] →
        z.attempts < z.allowed → goesOn m → z.detached = false →
        (∀ k, laterTrunk m z.policy z.trunk = some k → m.afterAttempt z o = attemptOn m z k) ∧
        (laterTrunk m z.policy z.trunk = none → m.afterAttempt z o = m.endTransfer z .noTrunk)) ∧
      (o ∉ [.noAnswer, .garbled, .wrongStation, .wrongToggle, .wrongLength, .occupied, .echoFault] ∨
          z.allowed ≤ z.attempts ∨ ¬goesOn m ∨ z.detached = true →
        m.afterAttempt z o = m.endTransfer z o)) ∧
    (z.kind = .broadcast ∨ z.kind = .sync →
      (z.trunk = .a → m.trunkB.state = .ready → goesOn m → m.afterAttempt z o = attemptOn m z .b) ∧
      (z.trunk = .b ∨ m.trunkB.state ≠ .ready ∨ ¬goesOn m →
        m.afterAttempt z o = m.endTransfer z (if z.broadcastSent then .sent else o))))

/-- The reports of a transfer's end, in their order (R71, R72, R74, R103, R105, R106, R107, R109, R114, R125, R128):
the point runtime delivers a good answer or keeps it PENDING under HOLD, TRANSFER FAULT, the station table, and the
demand, which leaves with DEMAND DONE; then the record is NONE and the slot ends. A PROBE and a SYNC reach no point and
write no TRANSFER FAULT, a BROADCAST and a SYNC reach no station (R69, R70). -/
def Obligations.TransferEndReportsInOrder : Prop :=
  (∀ (s : State) (x : Transfer) (o : OutcomeCode) (w : State),
    w = (((s.pointReport x o).faultReport x o).stationReport x o).demandReport x o →
    (o ≠ .noTrunk → s.endTransfer x o = ({ w with xfer := none }).endSlot) ∧
    (o = .noTrunk → s.endTransfer x o = (noTrunkTold { w with xfer := none }).endSlot)) ∧
  (∀ (s : State) (x : Transfer) (o : OutcomeCode) (r : PointRecord) (closed delivered : PointEntry), x.values = some r →
    closed = { s.point x.point with lastOutcome := o, inFlight := false } →
    delivered = { closed with committed := false, stampSweep := s.eng.sweep, stampRound := s.eng.round } →
    (x.kind = .point → (o = .good ∨ o = .goodRepeat) →
      (r.function = .write → s.pointReport x o = s.setPoint x.point delivered) ∧
      (r.function ≠ .write → closed.hold = true →
        s.pointReport x o = s.setPoint x.point { delivered with pending := true }) ∧
      (r.function ≠ .write → closed.hold = false → ∀ u : State,
        u = s.setPoint x.point { delivered with stable := !closed.stable, updates := closed.updates + 1 } →
        (r.notify = false → s.pointReport x o = u) ∧
        (r.notify = true →
          s.pointReport x o =
            u.report .pointUpdate (some x.trunk) r.station o (x.point.setWidth 16) (closed.updates + 1)))) ∧
    (x.kind = .point → o ≠ .good → o ≠ .goodRepeat → s.pointReport x o = s.setPoint x.point closed) ∧
    (x.kind = .broadcast → o = .sent → s.pointReport x o = s.setPoint x.point delivered) ∧
    (x.kind = .broadcast → o ≠ .sent → s.pointReport x o = s.setPoint x.point closed) ∧
    (x.kind = .probe → s.pointReport x o = s) ∧
    (x.kind = .point ∨ x.kind = .broadcast → r.report = true → o ∉ [.good, .goodRepeat, .busy, .sent] →
      s.faultReport x o =
        s.report .transferFault (some x.trunk) x.station o (x.point.setWidth 16)
          (BitVec.ofNat 16 (x.attempts + if x.demandTag = none then 0 else 0x100))) ∧
    (x.kind = .probe ∨ r.report = false ∨ o ∈ [.good, .goodRepeat, .busy, .sent] → s.faultReport x o = s)) ∧
  (∀ (s : State) (x : Transfer) (o : OutcomeCode),
    (x.kind = .probe ∨ x.kind = .sync → s.pointReport x o = s ∧ s.faultReport x o = s) ∧
    (x.kind = .broadcast ∨ x.kind = .sync → s.stationReport x o = s)) ∧
  (∀ (s : State) (x : Transfer) (o : OutcomeCode),
    (x.demandTag = none → s.demandReport x o = s) ∧
    (∀ tag d, x.demandTag = some tag → s.demandInFlight = some d →
      s.demandReport x o =
        ({ s with demands := s.demands.filter (fun d => !d.inFlight) }).report .demandDone (some x.trunk) d.station o
          (d.tag.setWidth 16) (BitVec.ofNat 16 (x.attempts % 64 * 1024 + d.point.toNat % 1024))))

/-! ## Invariants that every step keeps -/

/-- The part right after reset meets every invariant below. -/
def Obligations.ResetMeetsEveryInvariant : Prop :=
  RamCanonical State.reset ∧ RingInv State.reset.ring ∧ StationsInv State.reset ∧ DemandInv State.reset ∧
    AttemptInv State.reset ∧ SettingsInv State.reset.set ∧ PointsInv State.reset ∧ CommandInv State.reset

/-- The RAM keeps its canonical form, inside 16,384 words. The form is the model's (assumption 1). -/
def Obligations.EveryStepKeepsTheRamCanonical : Prop :=
  ∀ s t : State, RamCanonical s → step s = .next t → RamCanonical t

/-- The ring (R147, R149, R150, R151, R154, R155, R157): base and size fit the RAM, the indices stay in the ring, the
reserved occupancy is at most E - 1 and at most E - 2 while DROPPING is clear, and the dropped count is nonzero only
while DROPPING. -/
def Obligations.EveryStepKeepsTheRing : Prop :=
  ∀ s t : State, RingInv s.ring → step s = .next t → RingInv t.ring

/-- The station records (R77, Table 4-1): the failure run count is at most 15 and zero unless ONLINE or SUSPECT
and not zero in SUSPECT, the confirm count zero unless CONFIRMING. -/
def Obligations.EveryStepKeepsTheStations : Prop :=
  ∀ s t : State, StationsInv s → step s = .next t → StationsInv t

/-- The engine and the demand queue (R23, R31, R49, R118, R121, R123): stop point, halt cause, timer, pending switch
and transfer go with the engine state, the list holds at most eight demands of different points and tags, HIGH before
NORMAL, and at most one IN FLIGHT, which is being served. -/
def Obligations.EveryStepKeepsEngineAndDemands : Prop :=
  ∀ s t : State, DemandInv s → step s = .next t → DemandInv t

/-- The trunk interfaces and the attempt (R51, R131, R136, R137): timer and bursts go with TRAINING, a READY line has
counted four clean echoes, and an attempt in flight is on a READY trunk. -/
def Obligations.EveryStepKeepsTheAttemptOnAReadyTrunk : Prop :=
  ∀ s t : State, AttemptInv s → step s = .next t → AttemptInv t

/-- The registers keep their ranges, so that every valid point record lies inside the RAM (R1, R42, R55, R79, R81,
R99, R102, R142, R143); PENDING is set only while HOLD is set (R101); a BUSY unit shows no result (R174). -/
def Obligations.EveryStepKeepsRegistersAndEntries : Prop :=
  ∀ s t : State, SettingsInv s.set ∧ PointsInv s ∧ CommandInv s → step s = .next t →
    SettingsInv t.set ∧ PointsInv t ∧ CommandInv t
end

