-- ==== Sys2Proof/Laws/Ram.lean ====
section
/-! SUPPORT. The RAM: every write keeps the canonical form, a read after a write gives the word written, and a write
leaves every other word alone. -/

namespace Sys2Proof.Machine

/-- A canonical list from a higher bound is one from a lower bound. -/
theorem Ram.wfAbove_mono {low high : Nat} (h : low ≤ high) : ∀ {m : Ram}, Ram.wfAbove high m = true → Ram.wfAbove low m = true
  | [], _ => rfl
  | (a, w) :: rest, hm => by
    simp only [Ram.wfAbove, Bool.and_eq_true, decide_eq_true_eq] at hm ⊢
    exact ⟨⟨⟨by omega, hm.1.1.2⟩, hm.1.2⟩, hm.2⟩

/-- A cell in front of a list that lies above it. -/
theorem Ram.cons_wfAbove {low a : Nat} {w : Word} {m : Ram} (hlow : low ≤ a) (ha : a < Config.ramWords)
    (hm : Ram.wfAbove (a + 1) m = true) : Ram.wfAbove low (Ram.cons a w m) = true := by
  unfold Ram.cons
  split
  · exact Ram.wfAbove_mono (by omega) hm
  · rename_i hw
    simp [Ram.wfAbove, hlow, ha, hw, hm]

/-- A write keeps the canonical form above any bound that the address meets. -/
theorem Ram.write_wfAbove {a : Nat} {w : Word} (ha : a < Config.ramWords) :
    ∀ {low : Nat} {m : Ram}, low ≤ a → Ram.wfAbove low m = true → Ram.wfAbove low (Ram.write m a w) = true
  | low, [], hlow, _ => Ram.cons_wfAbove hlow ha rfl
  | low, (b, v) :: rest, hlow, hm => by
    simp only [Ram.wfAbove, Bool.and_eq_true, decide_eq_true_eq] at hm
    unfold Ram.write
    split
    · refine Ram.cons_wfAbove hlow ha ?_
      simp only [Ram.wfAbove, Bool.and_eq_true, decide_eq_true_eq]
      exact ⟨⟨⟨by omega, hm.1.1.2⟩, hm.1.2⟩, hm.2⟩
    · split
      · rename_i h
        exact Ram.cons_wfAbove hlow ha (h ▸ hm.2)
      · simp only [Ram.wfAbove, Bool.and_eq_true, decide_eq_true_eq]
        exact ⟨⟨⟨hm.1.1.1, hm.1.1.2⟩, hm.1.2⟩, Ram.write_wfAbove ha (by omega) hm.2⟩

/-- A write keeps the canonical form. -/
theorem Ram.write_wf {m : Ram} {a : Nat} {w : Word} (ha : a < Config.ramWords) (hm : m.wf = true) :
    (m.write a w).wf = true := Ram.write_wfAbove ha (Nat.zero_le a) hm

/-- The RAM after power-up is canonical. -/
theorem Ram.nil_wf : Ram.wf [] = true := rfl

/-- A list that lies above an address does not list it. -/
theorem Ram.read_below {a : Nat} : ∀ {low : Nat} {m : Ram}, a < low → Ram.wfAbove low m = true → Ram.read m a = Ram.unlisted
  | _, [], _, _ => rfl
  | low, (b, v) :: rest, h, hm => by
    simp only [Ram.wfAbove, Bool.and_eq_true, decide_eq_true_eq] at hm
    have hne : ¬a = b := by omega
    simp only [Ram.read, hne, if_false]
    exact Ram.read_below (by omega) hm.2

/-- A read of a cell in front. -/
theorem Ram.read_cons_same {a : Nat} {w : Word} {m : Ram} (hm : Ram.wfAbove (a + 1) m = true) :
    Ram.read (Ram.cons a w m) a = w := by
  unfold Ram.cons
  split
  · rename_i h
    rw [Ram.read_below (by omega) hm, h]
  · simp [Ram.read]

/-- A read past a cell in front. -/
theorem Ram.read_cons_other {a c : Nat} {w : Word} {m : Ram} (h : c ≠ a) : Ram.read (Ram.cons a w m) c = Ram.read m c := by
  unfold Ram.cons
  split
  · rfl
  · simp [Ram.read, h]

/-- A read after a write to the same address, above any bound. -/
theorem Ram.read_write_same_above {a : Nat} {w : Word} :
    ∀ {low : Nat} {m : Ram}, Ram.wfAbove low m = true → Ram.read (Ram.write m a w) a = w
  | _, [], _ => Ram.read_cons_same rfl
  | low, (b, v) :: rest, hm => by
    simp only [Ram.wfAbove, Bool.and_eq_true, decide_eq_true_eq] at hm
    unfold Ram.write
    split
    · refine Ram.read_cons_same ?_
      simp only [Ram.wfAbove, Bool.and_eq_true, decide_eq_true_eq]
      exact ⟨⟨⟨by omega, hm.1.1.2⟩, hm.1.2⟩, hm.2⟩
    · split
      · rename_i h
        subst h
        exact Ram.read_cons_same hm.2
      · rename_i h
        simp only [Ram.read, h, if_false]
        exact Ram.read_write_same_above hm.2

/-- A read after a write to the same address gives the word written. -/
theorem Ram.read_write_same {m : Ram} {a : Nat} {w : Word} (hm : m.wf = true) : (m.write a w).read a = w :=
  Ram.read_write_same_above hm

/-- A write leaves every other address alone. -/
theorem Ram.read_write_other {a c : Nat} {w : Word} (h : c ≠ a) :
    ∀ {m : Ram}, Ram.read (Ram.write m a w) c = Ram.read m c
  | [] => Ram.read_cons_other h
  | (b, v) :: rest => by
    unfold Ram.write
    split
    · exact Ram.read_cons_other h
    · split
      · rename_i hab
        subst hab
        rw [Ram.read_cons_other h]
        simp [Ram.read, h]
      · by_cases hcb : c = b
        · simp [Ram.read, hcb]
        · simp only [Ram.read, hcb, if_false]
          exact Ram.read_write_other h

end Sys2Proof.Machine
end

