-- ==== Sys2Proof/Laws/State.lean ====
section
/-! SUPPORT. The primitive updates of the state: which fields each leaves alone, and what it makes of the others. -/

namespace Sys2Proof.Machine

/-! ## Fields left alone -/

/-- `writeRam` changes no field but ram. -/
@[simp] theorem State.writeRam_frame (s : State) (a : Nat) (w : Word) :
    (s.writeRam a w).pending = s.pending ∧ (s.writeRam a w).port = s.port ∧ (s.writeRam a w).cmd = s.cmd ∧
    (s.writeRam a w).set = s.set ∧ (s.writeRam a w).eng = s.eng ∧ (s.writeRam a w).xfer = s.xfer ∧
    (s.writeRam a w).stations = s.stations ∧ (s.writeRam a w).points = s.points ∧
    (s.writeRam a w).demands = s.demands ∧ (s.writeRam a w).trunkA = s.trunkA ∧ (s.writeRam a w).trunkB = s.trunkB ∧
    (s.writeRam a w).ring = s.ring ∧ (s.writeRam a w).time = s.time ∧ (s.writeRam a w).lastGrant = s.lastGrant ∧
    (s.writeRam a w).traffic = s.traffic := by
  and_intros <;> rfl

/-- `beginEngineRead` changes no field but traffic. -/
@[simp] theorem State.beginEngineRead_frame (s : State) :
    s.beginEngineRead.pending = s.pending ∧ s.beginEngineRead.port = s.port ∧ s.beginEngineRead.cmd = s.cmd ∧
    s.beginEngineRead.set = s.set ∧ s.beginEngineRead.eng = s.eng ∧ s.beginEngineRead.xfer = s.xfer ∧
    s.beginEngineRead.stations = s.stations ∧ s.beginEngineRead.points = s.points ∧
    s.beginEngineRead.demands = s.demands ∧ s.beginEngineRead.trunkA = s.trunkA ∧
    s.beginEngineRead.trunkB = s.trunkB ∧ s.beginEngineRead.ring = s.ring ∧ s.beginEngineRead.ram = s.ram ∧
    s.beginEngineRead.time = s.time ∧ s.beginEngineRead.lastGrant = s.lastGrant := by
  and_intros <;> rfl

/-- `beginCommandRead` changes no field but traffic. -/
@[simp] theorem State.beginCommandRead_frame (s : State) :
    s.beginCommandRead.pending = s.pending ∧ s.beginCommandRead.port = s.port ∧ s.beginCommandRead.cmd = s.cmd ∧
    s.beginCommandRead.set = s.set ∧ s.beginCommandRead.eng = s.eng ∧ s.beginCommandRead.xfer = s.xfer ∧
    s.beginCommandRead.stations = s.stations ∧ s.beginCommandRead.points = s.points ∧
    s.beginCommandRead.demands = s.demands ∧ s.beginCommandRead.trunkA = s.trunkA ∧
    s.beginCommandRead.trunkB = s.trunkB ∧ s.beginCommandRead.ring = s.ring ∧ s.beginCommandRead.ram = s.ram ∧
    s.beginCommandRead.time = s.time ∧ s.beginCommandRead.lastGrant = s.lastGrant := by
  and_intros <;> rfl

/-- `endEngineRead` changes no field but traffic. -/
@[simp] theorem State.endEngineRead_frame (s : State) :
    s.endEngineRead.pending = s.pending ∧ s.endEngineRead.port = s.port ∧ s.endEngineRead.cmd = s.cmd ∧
    s.endEngineRead.set = s.set ∧ s.endEngineRead.eng = s.eng ∧ s.endEngineRead.xfer = s.xfer ∧
    s.endEngineRead.stations = s.stations ∧ s.endEngineRead.points = s.points ∧
    s.endEngineRead.demands = s.demands ∧ s.endEngineRead.trunkA = s.trunkA ∧ s.endEngineRead.trunkB = s.trunkB ∧
    s.endEngineRead.ring = s.ring ∧ s.endEngineRead.ram = s.ram ∧ s.endEngineRead.time = s.time ∧
    s.endEngineRead.lastGrant = s.lastGrant := by
  and_intros <;> rfl

/-- `endCommandRead` changes no field but traffic. -/
@[simp] theorem State.endCommandRead_frame (s : State) :
    s.endCommandRead.pending = s.pending ∧ s.endCommandRead.port = s.port ∧ s.endCommandRead.cmd = s.cmd ∧
    s.endCommandRead.set = s.set ∧ s.endCommandRead.eng = s.eng ∧ s.endCommandRead.xfer = s.xfer ∧
    s.endCommandRead.stations = s.stations ∧ s.endCommandRead.points = s.points ∧
    s.endCommandRead.demands = s.demands ∧ s.endCommandRead.trunkA = s.trunkA ∧ s.endCommandRead.trunkB = s.trunkB ∧
    s.endCommandRead.ring = s.ring ∧ s.endCommandRead.ram = s.ram ∧ s.endCommandRead.time = s.time ∧
    s.endCommandRead.lastGrant = s.lastGrant := by
  and_intros <;> rfl

/-- `setTrunk` changes no field but trunkA, trunkB. -/
@[simp] theorem State.setTrunk_frame (s : State) (t : TrunkId) (x : Trunk) :
    (s.setTrunk t x).pending = s.pending ∧ (s.setTrunk t x).port = s.port ∧ (s.setTrunk t x).cmd = s.cmd ∧
    (s.setTrunk t x).set = s.set ∧ (s.setTrunk t x).eng = s.eng ∧ (s.setTrunk t x).xfer = s.xfer ∧
    (s.setTrunk t x).stations = s.stations ∧ (s.setTrunk t x).points = s.points ∧
    (s.setTrunk t x).demands = s.demands ∧ (s.setTrunk t x).ring = s.ring ∧ (s.setTrunk t x).ram = s.ram ∧
    (s.setTrunk t x).time = s.time ∧ (s.setTrunk t x).lastGrant = s.lastGrant ∧ (s.setTrunk t x).traffic = s.traffic := by
  and_intros <;> rfl

/-- `setPoint` changes no field but points. -/
@[simp] theorem State.setPoint_frame (s : State) (p : BitVec 8) (e : PointEntry) :
    (s.setPoint p e).pending = s.pending ∧ (s.setPoint p e).port = s.port ∧ (s.setPoint p e).cmd = s.cmd ∧
    (s.setPoint p e).set = s.set ∧ (s.setPoint p e).eng = s.eng ∧ (s.setPoint p e).xfer = s.xfer ∧
    (s.setPoint p e).stations = s.stations ∧ (s.setPoint p e).demands = s.demands ∧
    (s.setPoint p e).trunkA = s.trunkA ∧ (s.setPoint p e).trunkB = s.trunkB ∧ (s.setPoint p e).ring = s.ring ∧
    (s.setPoint p e).ram = s.ram ∧ (s.setPoint p e).time = s.time ∧ (s.setPoint p e).lastGrant = s.lastGrant ∧
    (s.setPoint p e).traffic = s.traffic := by
  and_intros <;> rfl

/-- `setStation` changes no field but stations. -/
@[simp] theorem State.setStation_frame (s : State) (n : Nat) (r : Station) :
    (s.setStation n r).pending = s.pending ∧ (s.setStation n r).port = s.port ∧ (s.setStation n r).cmd = s.cmd ∧
    (s.setStation n r).set = s.set ∧ (s.setStation n r).eng = s.eng ∧ (s.setStation n r).xfer = s.xfer ∧
    (s.setStation n r).points = s.points ∧ (s.setStation n r).demands = s.demands ∧
    (s.setStation n r).trunkA = s.trunkA ∧ (s.setStation n r).trunkB = s.trunkB ∧ (s.setStation n r).ring = s.ring ∧
    (s.setStation n r).ram = s.ram ∧ (s.setStation n r).time = s.time ∧ (s.setStation n r).lastGrant = s.lastGrant ∧
    (s.setStation n r).traffic = s.traffic := by
  and_intros <;> rfl

/-- `raise` changes no field but port. -/
@[simp] theorem State.raise_frame (s : State) (c : BitVec 5) :
    (s.raise c).pending = s.pending ∧ (s.raise c).cmd = s.cmd ∧ (s.raise c).set = s.set ∧ (s.raise c).eng = s.eng ∧
    (s.raise c).xfer = s.xfer ∧ (s.raise c).stations = s.stations ∧ (s.raise c).points = s.points ∧
    (s.raise c).demands = s.demands ∧ (s.raise c).trunkA = s.trunkA ∧ (s.raise c).trunkB = s.trunkB ∧
    (s.raise c).ring = s.ring ∧ (s.raise c).ram = s.ram ∧ (s.raise c).time = s.time ∧
    (s.raise c).lastGrant = s.lastGrant ∧ (s.raise c).traffic = s.traffic := by
  and_intros <;> rfl

/-- `hostError` changes no field but port. -/
@[simp] theorem State.hostError_frame (s : State) (c : HostError) (a : HostAddress) :
    (s.hostError c a).pending = s.pending ∧ (s.hostError c a).cmd = s.cmd ∧ (s.hostError c a).set = s.set ∧
    (s.hostError c a).eng = s.eng ∧ (s.hostError c a).xfer = s.xfer ∧ (s.hostError c a).stations = s.stations ∧
    (s.hostError c a).points = s.points ∧ (s.hostError c a).demands = s.demands ∧
    (s.hostError c a).trunkA = s.trunkA ∧ (s.hostError c a).trunkB = s.trunkB ∧ (s.hostError c a).ring = s.ring ∧
    (s.hostError c a).ram = s.ram ∧ (s.hostError c a).time = s.time ∧ (s.hostError c a).lastGrant = s.lastGrant ∧
    (s.hostError c a).traffic = s.traffic := by
  and_intros <;> rfl

/-- `report` changes no field but ring. -/
@[simp] theorem State.report_frame (s : State) (k : EventKind) (t : Option TrunkId) (n : Nat) (o : OutcomeCode) (i d : Word) :
    (s.report k t n o i d).pending = s.pending ∧ (s.report k t n o i d).port = s.port ∧
    (s.report k t n o i d).cmd = s.cmd ∧ (s.report k t n o i d).set = s.set ∧ (s.report k t n o i d).eng = s.eng ∧
    (s.report k t n o i d).xfer = s.xfer ∧ (s.report k t n o i d).stations = s.stations ∧
    (s.report k t n o i d).points = s.points ∧ (s.report k t n o i d).demands = s.demands ∧
    (s.report k t n o i d).trunkA = s.trunkA ∧ (s.report k t n o i d).trunkB = s.trunkB ∧
    (s.report k t n o i d).ram = s.ram ∧ (s.report k t n o i d).time = s.time ∧
    (s.report k t n o i d).lastGrant = s.lastGrant ∧ (s.report k t n o i d).traffic = s.traffic := by
  and_intros <;> rfl

/-- `complete` changes no field but cmd, port. -/
@[simp] theorem State.complete_frame (s : State) (r : ResultCode) (d : Word) :
    (s.complete r d).pending = s.pending ∧ (s.complete r d).set = s.set ∧ (s.complete r d).eng = s.eng ∧
    (s.complete r d).xfer = s.xfer ∧ (s.complete r d).stations = s.stations ∧ (s.complete r d).points = s.points ∧
    (s.complete r d).demands = s.demands ∧ (s.complete r d).trunkA = s.trunkA ∧ (s.complete r d).trunkB = s.trunkB ∧
    (s.complete r d).ring = s.ring ∧ (s.complete r d).ram = s.ram ∧ (s.complete r d).time = s.time ∧
    (s.complete r d).lastGrant = s.lastGrant ∧ (s.complete r d).traffic = s.traffic := by
  and_intros <;> rfl

/-- `holdCommand` changes no field but cmd. -/
@[simp] theorem State.holdCommand_frame (s : State) (w : CommandWork) :
    (s.holdCommand w).pending = s.pending ∧ (s.holdCommand w).port = s.port ∧ (s.holdCommand w).set = s.set ∧
    (s.holdCommand w).eng = s.eng ∧ (s.holdCommand w).xfer = s.xfer ∧ (s.holdCommand w).stations = s.stations ∧
    (s.holdCommand w).points = s.points ∧ (s.holdCommand w).demands = s.demands ∧
    (s.holdCommand w).trunkA = s.trunkA ∧ (s.holdCommand w).trunkB = s.trunkB ∧ (s.holdCommand w).ring = s.ring ∧
    (s.holdCommand w).ram = s.ram ∧ (s.holdCommand w).time = s.time ∧ (s.holdCommand w).lastGrant = s.lastGrant ∧
    (s.holdCommand w).traffic = s.traffic := by
  and_intros <;> rfl

/-- `enqueueFirst` changes no field but pending. -/
@[simp] theorem State.enqueueFirst_frame (s : State) (i : Instr) :
    (s.enqueueFirst i).port = s.port ∧ (s.enqueueFirst i).cmd = s.cmd ∧ (s.enqueueFirst i).set = s.set ∧
    (s.enqueueFirst i).eng = s.eng ∧ (s.enqueueFirst i).xfer = s.xfer ∧ (s.enqueueFirst i).stations = s.stations ∧
    (s.enqueueFirst i).points = s.points ∧ (s.enqueueFirst i).demands = s.demands ∧
    (s.enqueueFirst i).trunkA = s.trunkA ∧ (s.enqueueFirst i).trunkB = s.trunkB ∧ (s.enqueueFirst i).ring = s.ring ∧
    (s.enqueueFirst i).ram = s.ram ∧ (s.enqueueFirst i).time = s.time ∧ (s.enqueueFirst i).lastGrant = s.lastGrant ∧
    (s.enqueueFirst i).traffic = s.traffic := by
  and_intros <;> rfl

/-! ## Fields changed -/

/-- What `complete` makes of the Command Unit and of the causes (R174). -/
@[simp] theorem State.complete_changes (s : State) (r : ResultCode) (d : Word) :
    (s.complete r d).cmd = { s.cmd with held := none, result := r, detail := d } ∧
    (s.complete r d).port = s.port.raise causeCommand := ⟨rfl, rfl⟩

/-- What `holdCommand` makes of the Command Unit (R171, R172). -/
@[simp] theorem State.holdCommand_cmd (s : State) (w : CommandWork) :
    (s.holdCommand w).cmd = { s.cmd with held := some { args := s.cmd.args, work := w } } := rfl

/-- What `raise` makes of the port. -/
@[simp] theorem State.raise_port (s : State) (c : BitVec 5) : (s.raise c).port = s.port.raise c := rfl

/-- What `hostError` makes of the port. -/
@[simp] theorem State.hostError_port (s : State) (c : HostError) (a : HostAddress) :
    (s.hostError c a).port = s.port.latch c a := rfl

/-- Setting causes changes nothing else of the port. -/
@[simp] theorem HostPort.raise_frame (p : HostPort) (c : BitVec 5) :
    (p.raise c).resetAsserted = p.resetAsserted ∧ (p.raise c).readData = p.readData ∧
    (p.raise c).irqEnable = p.irqEnable ∧ (p.raise c).errorCode = p.errorCode ∧
    (p.raise c).errorAddress = p.errorAddress ∧ (p.raise c).timeHold = p.timeHold ∧
    (p.raise c).irqCause = p.irqCause ||| c := ⟨rfl, rfl, rfl, rfl, rfl, rfl, rfl⟩

/-- The latch changes nothing of the port but the code, the address and the HOST ERROR cause (R162). -/
@[simp] theorem HostPort.latch_frame (p : HostPort) (c : HostError) (a : HostAddress) :
    (p.latch c a).resetAsserted = p.resetAsserted ∧ (p.latch c a).readData = p.readData ∧
    (p.latch c a).irqEnable = p.irqEnable ∧ (p.latch c a).timeHold = p.timeHold := by
  unfold HostPort.latch
  split <;> simp

/-- A trunk is read as it was set. -/
@[simp] theorem State.trunk_setTrunk (s : State) (t : TrunkId) (x : Trunk) : (s.setTrunk t x).trunk t = x := by
  cases t <;> rfl

/-- Setting one trunk leaves the other. -/
@[simp] theorem State.trunk_setTrunk_other (s : State) (t : TrunkId) (x : Trunk) :
    (s.setTrunk t x).trunk (otherTrunk t) = s.trunk (otherTrunk t) := by
  cases t <;> rfl

/-- Trunk A after one trunk is set. -/
theorem State.setTrunk_trunkA (s : State) (t : TrunkId) (x : Trunk) :
    (s.setTrunk t x).trunkA = if t = .a then x else s.trunkA := rfl

/-- Trunk B after one trunk is set. -/
theorem State.setTrunk_trunkB (s : State) (t : TrunkId) (x : Trunk) :
    (s.setTrunk t x).trunkB = if t = .b then x else s.trunkB := rfl

/-- A point is read as it was set. -/
@[simp] theorem State.point_setPoint (s : State) (p : BitVec 8) (e : PointEntry) : (s.setPoint p e).point p = e := by
  simp [State.point, State.setPoint]

/-- Setting one point leaves the others. -/
theorem State.point_setPoint_other (s : State) {p q : BitVec 8} (e : PointEntry) (h : q ≠ p) :
    (s.setPoint p e).point q = s.point q := by
  have hne : p.toNat ≠ q.toNat := fun h' => h (BitVec.eq_of_toNat_eq h'.symm)
  simp only [State.point, State.setPoint]
  exact Vector.getElem_set_ne _ _ hne

/-- Any point after one is set. -/
theorem State.point_setPoint_any (s : State) (p q : BitVec 8) (e : PointEntry) :
    (s.setPoint p e).point q = if q = p then e else s.point q := by
  by_cases h : q = p
  · subst h; simp
  · simp [h, State.point_setPoint_other s e h]

/-- A point is read from the table alone. -/
theorem State.point_congr {s t : State} (h : t.points = s.points) (p : BitVec 8) : t.point p = s.point p := by
  unfold State.point; simp only [h]

/-- A station with a record is read from the table. -/
theorem State.station_of (s : State) {n : Nat} (h : isStation n) : s.station n = s.stations[n - 1]'h.2 := dif_pos h

/-- A number without a record reads as OFF. -/
theorem State.station_none (s : State) {n : Nat} (h : ¬isStation n) : s.station n = .reset := dif_neg h

/-- The table after one record is set. -/
theorem State.setStation_of (s : State) {n : Nat} (r : Station) (h : isStation n) :
    (s.setStation n r).stations = s.stations.set (n - 1) r h.2 := dif_pos h

/-- A number without a record sets nothing. -/
theorem State.setStation_none (s : State) {n : Nat} (r : Station) (h : ¬isStation n) : s.setStation n r = s := by
  unfold State.setStation
  rw [dif_neg h]

/-- A station is read as it was set. -/
theorem State.station_setStation (s : State) {n : Nat} (r : Station) (h : isStation n) :
    (s.setStation n r).station n = r := by
  rw [State.station_of _ h]
  simp only [State.setStation_of s r h]
  exact Vector.getElem_set_self _

/-- Setting one station leaves the others. -/
theorem State.station_setStation_other (s : State) {n m : Nat} (r : Station) (h : m ≠ n) :
    (s.setStation n r).station m = s.station m := by
  by_cases hn : isStation n
  · by_cases hm : isStation m
    · have hne : n - 1 ≠ m - 1 := by
        have h1 := hm.1
        have h2 := hn.1
        omega
      rw [State.station_of _ hm, State.station_of _ hm]
      simp only [State.setStation_of s r hn]
      exact Vector.getElem_set_ne _ _ hne
    · rw [State.station_none _ hm, State.station_none _ hm]
  · rw [State.setStation_none s r hn]

/-- Any station after one is set: a number without a record takes nothing. -/
theorem State.station_setStation_any (s : State) (n m : Nat) (r : Station) :
    (s.setStation n r).station m = if m = n ∧ isStation n then r else s.station m := by
  by_cases hm : m = n
  · subst hm
    by_cases hn : isStation m
    · rw [State.station_setStation s r hn, if_pos ⟨rfl, hn⟩]
    · rw [State.setStation_none s r hn, if_neg (fun h => hn h.2)]
  · rw [State.station_setStation_other s r hm, if_neg (fun h => hm h.1)]

/-- A station is read from the table alone. -/
theorem State.station_congr {s t : State} (h : t.stations = s.stations) (n : Nat) : t.station n = s.station n := by
  cases s
  cases t
  cases h
  rfl

/-- A trunk is read from the two interfaces alone. -/
theorem State.trunk_congr {s t : State} (ha : t.trunkA = s.trunkA) (hb : t.trunkB = s.trunkB) (u : TrunkId) :
    t.trunk u = s.trunk u := by
  cases u
  · exact ha
  · exact hb

end Sys2Proof.Machine
end

