-- ==== Sys2Proof/Laws/Arbiter.lean ====
section
/-! SUPPORT. What grants can do: they move the RAM, the traffic and the rotation, and nothing else; the RAM keeps its
form. -/

namespace Sys2Proof.Machine

/-! ## Grants move nothing but the RAM, the traffic and the rotation -/

/-- The second state is the first but for the RAM, the traffic and the rotation. -/
def OnlyTraffic (s t : State) : Prop :=
  t = { s with ram := t.ram, traffic := t.traffic, lastGrant := t.lastGrant }

/-- Nothing granted. -/
theorem OnlyTraffic.refl (s : State) : OnlyTraffic s s := rfl

/-- Grants after grants. -/
theorem OnlyTraffic.trans {s t u : State} (h : OnlyTraffic s t) (h' : OnlyTraffic t u) : OnlyTraffic s u := by
  unfold OnlyTraffic at *
  rw [h'] at *
  rw [h]

/-- What grants leave alone. -/
theorem OnlyTraffic.frame {s t : State} (h : OnlyTraffic s t) :
    t.pending = s.pending ∧ t.port = s.port ∧ t.cmd = s.cmd ∧ t.set = s.set ∧ t.eng = s.eng ∧ t.xfer = s.xfer ∧
    t.stations = s.stations ∧ t.points = s.points ∧ t.demands = s.demands ∧ t.trunkA = s.trunkA ∧
    t.trunkB = s.trunkB ∧ t.ring = s.ring ∧ t.time = s.time := by
  unfold OnlyTraffic at h
  rw [h]
  and_intros <;> rfl

/-- One grant. -/
theorem State.grant_only (s : State) (r : Requester) : OnlyTraffic s (s.grant r) := by
  unfold State.grant State.access State.storeEventWord
  cases r
  · rfl
  · rfl
  · dsimp only
    split <;> rfl
  · rfl

/-- The grants before a turn. -/
theorem State.untilTurn_only (s : State) (r : Requester) (n : Nat) : OnlyTraffic s (s.untilTurn r n) := by
  induction n generalizing s with
  | zero => exact .refl s
  | succ k ih =>
    unfold State.untilTurn
    split
    · split
      · exact .refl s
      · exact (s.grant_only _).trans (ih _)
    · exact .refl s

/-- One access in its turn. -/
theorem State.serve_only (s : State) (r : Requester) : OnlyTraffic s (s.serve r) :=
  (s.untilTurn_only r 3).trans (State.grant_only _ r)

/-- Accesses in their turns. -/
theorem State.serveMany_only (s : State) (r : Requester) (n : Nat) : OnlyTraffic s (s.serveMany r n) := by
  induction n generalizing s with
  | zero => exact .refl s
  | succ k ih => exact (s.serve_only r).trans (ih _)

/-- The rest of the engine's read. -/
theorem State.engineReadsOn_only (s : State) (n : Nat) : OnlyTraffic s (s.engineReadsOn n) := by
  induction n generalizing s with
  | zero => exact .refl s
  | succ k ih =>
    unfold State.engineReadsOn
    split
    · exact (s.serve_only _).trans (ih _)
    · exact .refl s

/-- The rest of a held command's read. -/
theorem State.commandReadsOn_only (s : State) (n : Nat) : OnlyTraffic s (s.commandReadsOn n) := by
  induction n generalizing s with
  | zero => exact .refl s
  | succ k ih =>
    unfold State.commandReadsOn
    split
    · exact (s.serve_only _).trans (ih _)
    · exact .refl s

/-- A number of grants. -/
theorem State.grants_only (s : State) (n : Nat) : OnlyTraffic s (s.grants n) := by
  induction n generalizing s with
  | zero => exact .refl s
  | succ k ih =>
    unfold State.grants
    split
    · exact (s.grant_only _).trans (ih _)
    · exact .refl s

/-- The grants of a stretch of time. -/
theorem State.served_only (s : State) : OnlyTraffic s s.served := by
  unfold State.served
  split
  · exact .refl s
  · exact (s.grants_only _).trans rfl

/-- Nothing is granted while nothing waits. -/
theorem State.served_of_idle {s : State} (he : s.engineAsks = false) (hc : s.commandAsks = false)
    (hw : s.writerAsks = false) : s.served = s := by
  unfold State.served
  rw [he, hc, hw]
  simp

/-- The requester whose turn is awaited has an access waiting. -/
@[simp] theorem Waiting.asks_and (w : Waiting) (r : Requester) : (w.and r).asks r = true := by cases r <;> rfl

/-- Where nothing else waits, an access is granted at once (R169). -/
theorem State.serve_of_idle {s : State} (r : Requester) (he : s.engineAsks = false) (hc : s.commandAsks = false)
    (hw : s.writerAsks = false) : s.serve r = s.grant r := by
  have turn : arbitrate false (s.waiting.and r) s.lastGrant = some (.rotating r) := by
    unfold State.waiting
    rw [he, hc, hw]
    generalize s.lastGrant = last
    cases r <;> cases last <;> rfl
  simp [State.serve, State.untilTurn, turn]

/-- Nothing is granted while RESET is asserted (R176). -/
theorem State.served_of_reset {s : State} (h : s.port.resetAsserted = true) : s.served = s := by
  unfold State.served
  rw [h]
  rfl

/-- Words of an answer. -/
theorem State.storeAnswer_only (l : List Word) (s : State) (a : Nat) : OnlyTraffic s (s.storeAnswer a l) := by
  induction l generalizing s a with
  | nil => exact .refl s
  | cons w rest ih =>
    have hw : OnlyTraffic s (s.writeRam a w) := rfl
    exact (hw.trans (State.served_only _)).trans (ih _ _)

/-- Words of a call. -/
theorem State.readPayload_only (n : Nat) (s : State) (page : Nat) (payload : List Word) :
    OnlyTraffic s (s.readPayload page payload n).1 := by
  induction n generalizing s payload with
  | zero => exact .refl s
  | succ k ih => exact s.served_only.trans (ih _ _)

/-! ## The same, field by field, for `simp` -/

/-- `served` changes no field but ram, traffic, lastGrant. -/
@[simp] theorem State.served_frame (s : State) :
    s.served.pending = s.pending ∧ s.served.port = s.port ∧ s.served.cmd = s.cmd ∧ s.served.set = s.set ∧
    s.served.eng = s.eng ∧ s.served.xfer = s.xfer ∧ s.served.stations = s.stations ∧ s.served.points = s.points ∧
    s.served.demands = s.demands ∧ s.served.trunkA = s.trunkA ∧ s.served.trunkB = s.trunkB ∧
    s.served.ring = s.ring ∧ s.served.time = s.time :=
  (s.served_only).frame

/-- `serve` changes no field but ram, traffic, lastGrant. -/
@[simp] theorem State.serve_frame (s : State) (r : Requester) :
    (s.serve r).pending = s.pending ∧ (s.serve r).port = s.port ∧ (s.serve r).cmd = s.cmd ∧
    (s.serve r).set = s.set ∧ (s.serve r).eng = s.eng ∧ (s.serve r).xfer = s.xfer ∧
    (s.serve r).stations = s.stations ∧ (s.serve r).points = s.points ∧ (s.serve r).demands = s.demands ∧
    (s.serve r).trunkA = s.trunkA ∧ (s.serve r).trunkB = s.trunkB ∧ (s.serve r).ring = s.ring ∧
    (s.serve r).time = s.time :=
  (s.serve_only r).frame

/-- `serveMany` changes no field but ram, traffic, lastGrant. -/
@[simp] theorem State.serveMany_frame (s : State) (r : Requester) (n : Nat) :
    (s.serveMany r n).pending = s.pending ∧ (s.serveMany r n).port = s.port ∧ (s.serveMany r n).cmd = s.cmd ∧
    (s.serveMany r n).set = s.set ∧ (s.serveMany r n).eng = s.eng ∧ (s.serveMany r n).xfer = s.xfer ∧
    (s.serveMany r n).stations = s.stations ∧ (s.serveMany r n).points = s.points ∧
    (s.serveMany r n).demands = s.demands ∧ (s.serveMany r n).trunkA = s.trunkA ∧
    (s.serveMany r n).trunkB = s.trunkB ∧ (s.serveMany r n).ring = s.ring ∧ (s.serveMany r n).time = s.time :=
  (s.serveMany_only r n).frame

/-- `engineReadsOn` changes no field but ram, traffic, lastGrant. -/
@[simp] theorem State.engineReadsOn_frame (s : State) (n : Nat) :
    (s.engineReadsOn n).pending = s.pending ∧ (s.engineReadsOn n).port = s.port ∧ (s.engineReadsOn n).cmd = s.cmd ∧
    (s.engineReadsOn n).set = s.set ∧ (s.engineReadsOn n).eng = s.eng ∧ (s.engineReadsOn n).xfer = s.xfer ∧
    (s.engineReadsOn n).stations = s.stations ∧ (s.engineReadsOn n).points = s.points ∧
    (s.engineReadsOn n).demands = s.demands ∧ (s.engineReadsOn n).trunkA = s.trunkA ∧
    (s.engineReadsOn n).trunkB = s.trunkB ∧ (s.engineReadsOn n).ring = s.ring ∧ (s.engineReadsOn n).time = s.time :=
  (s.engineReadsOn_only n).frame

/-- `commandReadsOn` changes no field but ram, traffic, lastGrant. -/
@[simp] theorem State.commandReadsOn_frame (s : State) (n : Nat) :
    (s.commandReadsOn n).pending = s.pending ∧ (s.commandReadsOn n).port = s.port ∧
    (s.commandReadsOn n).cmd = s.cmd ∧ (s.commandReadsOn n).set = s.set ∧ (s.commandReadsOn n).eng = s.eng ∧
    (s.commandReadsOn n).xfer = s.xfer ∧ (s.commandReadsOn n).stations = s.stations ∧
    (s.commandReadsOn n).points = s.points ∧ (s.commandReadsOn n).demands = s.demands ∧
    (s.commandReadsOn n).trunkA = s.trunkA ∧ (s.commandReadsOn n).trunkB = s.trunkB ∧
    (s.commandReadsOn n).ring = s.ring ∧ (s.commandReadsOn n).time = s.time :=
  (s.commandReadsOn_only n).frame

/-- `storeAnswer` changes no field but ram, traffic, lastGrant. -/
@[simp] theorem State.storeAnswer_frame (s : State) (l : List Word) (a : Nat) :
    (s.storeAnswer a l).pending = s.pending ∧ (s.storeAnswer a l).port = s.port ∧ (s.storeAnswer a l).cmd = s.cmd ∧
    (s.storeAnswer a l).set = s.set ∧ (s.storeAnswer a l).eng = s.eng ∧ (s.storeAnswer a l).xfer = s.xfer ∧
    (s.storeAnswer a l).stations = s.stations ∧ (s.storeAnswer a l).points = s.points ∧
    (s.storeAnswer a l).demands = s.demands ∧ (s.storeAnswer a l).trunkA = s.trunkA ∧
    (s.storeAnswer a l).trunkB = s.trunkB ∧ (s.storeAnswer a l).ring = s.ring ∧ (s.storeAnswer a l).time = s.time :=
  (State.storeAnswer_only l s a).frame

/-- `readPayload` changes no field but ram, traffic, lastGrant. -/
@[simp] theorem State.readPayload_frame (s : State) (page : Nat) (l : List Word) (n : Nat) :
    (s.readPayload page l n).1.pending = s.pending ∧ (s.readPayload page l n).1.port = s.port ∧
    (s.readPayload page l n).1.cmd = s.cmd ∧ (s.readPayload page l n).1.set = s.set ∧
    (s.readPayload page l n).1.eng = s.eng ∧ (s.readPayload page l n).1.xfer = s.xfer ∧
    (s.readPayload page l n).1.stations = s.stations ∧ (s.readPayload page l n).1.points = s.points ∧
    (s.readPayload page l n).1.demands = s.demands ∧ (s.readPayload page l n).1.trunkA = s.trunkA ∧
    (s.readPayload page l n).1.trunkB = s.trunkB ∧ (s.readPayload page l n).1.ring = s.ring ∧
    (s.readPayload page l n).1.time = s.time :=
  (State.readPayload_only n s page l).frame

/-! ## The canonical form of the RAM -/

/-- A stored word keeps the form. -/
theorem State.writeRam_wf {s : State} (a : Nat) (w : Word) (h : s.ram.wf = true) : (s.writeRam a w).ram.wf = true :=
  Ram.write_wf (Nat.mod_lt _ (by decide)) h

/-- One grant keeps the form. -/
theorem State.grant_wf {s : State} (r : Requester) (h : s.ram.wf = true) : (s.grant r).ram.wf = true := by
  unfold State.grant State.access State.storeEventWord
  cases r
  · exact h
  · exact h
  · dsimp only
    split
    · exact h
    · exact State.writeRam_wf _ _ h
  · exact h

/-- The grants before a turn keep the form. -/
theorem State.untilTurn_wf {s : State} (r : Requester) (n : Nat) (h : s.ram.wf = true) :
    (s.untilTurn r n).ram.wf = true := by
  induction n generalizing s with
  | zero => exact h
  | succ k ih =>
    unfold State.untilTurn
    split
    · split
      · exact h
      · exact ih (State.grant_wf _ h)
    · exact h

/-- One access in its turn keeps the form. -/
theorem State.serve_wf {s : State} (r : Requester) (h : s.ram.wf = true) : (s.serve r).ram.wf = true :=
  State.grant_wf _ (State.untilTurn_wf _ _ h)

/-- Accesses in their turns keep the form. -/
theorem State.serveMany_wf {s : State} (r : Requester) (n : Nat) (h : s.ram.wf = true) :
    (s.serveMany r n).ram.wf = true := by
  induction n generalizing s with
  | zero => exact h
  | succ k ih => exact ih (State.serve_wf _ h)

/-- The rest of the engine's read keeps the form. -/
theorem State.engineReadsOn_wf {s : State} (n : Nat) (h : s.ram.wf = true) : (s.engineReadsOn n).ram.wf = true := by
  induction n generalizing s with
  | zero => exact h
  | succ k ih =>
    unfold State.engineReadsOn
    split
    · exact ih (State.serve_wf _ h)
    · exact h

/-- The rest of a held command's read keeps the form. -/
theorem State.commandReadsOn_wf {s : State} (n : Nat) (h : s.ram.wf = true) : (s.commandReadsOn n).ram.wf = true := by
  induction n generalizing s with
  | zero => exact h
  | succ k ih =>
    unfold State.commandReadsOn
    split
    · exact ih (State.serve_wf _ h)
    · exact h

/-- A number of grants keeps the form. -/
theorem State.grants_wf {s : State} (n : Nat) (h : s.ram.wf = true) : (s.grants n).ram.wf = true := by
  induction n generalizing s with
  | zero => exact h
  | succ k ih =>
    unfold State.grants
    split
    · exact ih (State.grant_wf _ h)
    · exact h

/-- The grants of a stretch of time keep the form. -/
theorem State.served_wf {s : State} (h : s.ram.wf = true) : s.served.ram.wf = true := by
  unfold State.served
  split
  · exact h
  · exact State.grants_wf _ h

/-- Words of an answer keep the form. -/
theorem State.storeAnswer_wf (l : List Word) {s : State} (a : Nat) (h : s.ram.wf = true) :
    (s.storeAnswer a l).ram.wf = true := by
  induction l generalizing s a with
  | nil => exact h
  | cons w rest ih => exact ih _ (State.served_wf (State.writeRam_wf _ _ h))

/-- Words of a call keep the form. -/
theorem State.readPayload_wf (n : Nat) {s : State} (page : Nat) (payload : List Word) (h : s.ram.wf = true) :
    (s.readPayload page payload n).1.ram.wf = true := by
  induction n generalizing s payload with
  | zero => exact h
  | succ k ih => exact ih _ (State.served_wf h)

end Sys2Proof.Machine
end

