-- ==== Sys2Proof/Laws/Frames.lean ====
section
/-! SUPPORT. Which fields of the state each shared operation leaves alone: one lemma for each operation, for `simp`. -/

namespace Sys2Proof.Machine

/-! ## Time -/

/-- `elapseAttempt` changes no field but xfer, ram, traffic, lastGrant. -/
@[simp] theorem State.elapseAttempt_frame (s : State) (n : Nat) :
    (s.elapseAttempt n).pending = s.pending ∧ (s.elapseAttempt n).port = s.port ∧ (s.elapseAttempt n).cmd = s.cmd ∧
    (s.elapseAttempt n).set = s.set ∧ (s.elapseAttempt n).eng = s.eng ∧ (s.elapseAttempt n).stations = s.stations ∧
    (s.elapseAttempt n).points = s.points ∧ (s.elapseAttempt n).demands = s.demands ∧
    (s.elapseAttempt n).trunkA = s.trunkA ∧ (s.elapseAttempt n).trunkB = s.trunkB ∧
    (s.elapseAttempt n).ring = s.ring ∧ (s.elapseAttempt n).time = s.time := by
  unfold State.elapseAttempt
  repeat' (first | split | (dsimp only; split))
  all_goals simp

/-- `elapse` changes no field but time, eng, cmd, trunkA, trunkB, xfer, ram, traffic, lastGrant. -/
@[simp] theorem State.elapse_frame (s : State) (n : Nat) :
    (s.elapse n).pending = s.pending ∧ (s.elapse n).port = s.port ∧ (s.elapse n).set = s.set ∧
    (s.elapse n).stations = s.stations ∧ (s.elapse n).points = s.points ∧ (s.elapse n).demands = s.demands ∧
    (s.elapse n).ring = s.ring := by
  unfold State.elapse
  repeat' (first | split | (dsimp only; split))
  all_goals simp

/-- Time moves no more of the engine than its timers. -/
@[simp] theorem State.elapse_eng (s : State) (n : Nat) : (s.elapse n).eng = s.eng.elapse n := by
  show (s.elapseAttempt n).eng.elapse n = _
  rw [(State.elapseAttempt_frame s n).2.2.2.2.1]

/-! ## Lines -/

/-- `lineActivity` changes no field but trunkA, trunkB. -/
@[simp] theorem State.lineActivity_frame (s : State) (t : TrunkId) (a : Activity) :
    (s.lineActivity t a).pending = s.pending ∧ (s.lineActivity t a).port = s.port ∧ (s.lineActivity t a).cmd = s.cmd ∧
    (s.lineActivity t a).set = s.set ∧ (s.lineActivity t a).eng = s.eng ∧ (s.lineActivity t a).xfer = s.xfer ∧
    (s.lineActivity t a).stations = s.stations ∧ (s.lineActivity t a).points = s.points ∧
    (s.lineActivity t a).demands = s.demands ∧ (s.lineActivity t a).ring = s.ring ∧ (s.lineActivity t a).ram = s.ram ∧
    (s.lineActivity t a).time = s.time ∧ (s.lineActivity t a).lastGrant = s.lastGrant ∧
    (s.lineActivity t a).traffic = s.traffic := by
  unfold State.lineActivity
  repeat' (first | split | (dsimp only; split))
  all_goals simp

/-- `reportTrunk` changes no field but ring. -/
@[simp] theorem State.reportTrunk_frame (s : State) (t : TrunkId) (o n : TrunkState) (c : Nat) :
    (s.reportTrunk t o n c).pending = s.pending ∧ (s.reportTrunk t o n c).port = s.port ∧
    (s.reportTrunk t o n c).cmd = s.cmd ∧ (s.reportTrunk t o n c).set = s.set ∧
    (s.reportTrunk t o n c).eng = s.eng ∧ (s.reportTrunk t o n c).xfer = s.xfer ∧
    (s.reportTrunk t o n c).stations = s.stations ∧ (s.reportTrunk t o n c).points = s.points ∧
    (s.reportTrunk t o n c).demands = s.demands ∧ (s.reportTrunk t o n c).trunkA = s.trunkA ∧
    (s.reportTrunk t o n c).trunkB = s.trunkB ∧ (s.reportTrunk t o n c).ram = s.ram ∧
    (s.reportTrunk t o n c).time = s.time ∧ (s.reportTrunk t o n c).lastGrant = s.lastGrant ∧
    (s.reportTrunk t o n c).traffic = s.traffic := by
  unfold State.reportTrunk
  repeat' (first | split | (dsimp only; split))
  all_goals simp

/-- `trainEffect` changes no field but trunkA, trunkB, ring, cmd, port. -/
@[simp] theorem State.trainEffect_frame (s : State) (t : TrunkId) :
    (s.trainEffect t).pending = s.pending ∧ (s.trainEffect t).set = s.set ∧ (s.trainEffect t).eng = s.eng ∧
    (s.trainEffect t).xfer = s.xfer ∧ (s.trainEffect t).stations = s.stations ∧
    (s.trainEffect t).points = s.points ∧ (s.trainEffect t).demands = s.demands ∧ (s.trainEffect t).ram = s.ram ∧
    (s.trainEffect t).time = s.time ∧ (s.trainEffect t).lastGrant = s.lastGrant ∧ (s.trainEffect t).traffic = s.traffic := by
  unfold State.trainEffect
  repeat' (first | split | (dsimp only; split))
  all_goals simp

/-- `offEffect` changes no field but trunkA, trunkB, ring, cmd, port. -/
@[simp] theorem State.offEffect_frame (s : State) (t : TrunkId) :
    (s.offEffect t).pending = s.pending ∧ (s.offEffect t).set = s.set ∧ (s.offEffect t).eng = s.eng ∧
    (s.offEffect t).xfer = s.xfer ∧ (s.offEffect t).stations = s.stations ∧ (s.offEffect t).points = s.points ∧
    (s.offEffect t).demands = s.demands ∧ (s.offEffect t).ram = s.ram ∧ (s.offEffect t).time = s.time ∧
    (s.offEffect t).lastGrant = s.lastGrant ∧ (s.offEffect t).traffic = s.traffic := by
  unfold State.offEffect
  repeat' (first | split | (dsimp only; split))
  all_goals simp

/-- `trunkEffect` changes no field but trunkA, trunkB, ring, cmd, port. -/
@[simp] theorem State.trunkEffect_frame (s : State) (c : TrunkCommand) (t : TrunkId) :
    (s.trunkEffect c t).pending = s.pending ∧ (s.trunkEffect c t).set = s.set ∧ (s.trunkEffect c t).eng = s.eng ∧
    (s.trunkEffect c t).xfer = s.xfer ∧ (s.trunkEffect c t).stations = s.stations ∧
    (s.trunkEffect c t).points = s.points ∧ (s.trunkEffect c t).demands = s.demands ∧
    (s.trunkEffect c t).ram = s.ram ∧ (s.trunkEffect c t).time = s.time ∧
    (s.trunkEffect c t).lastGrant = s.lastGrant ∧ (s.trunkEffect c t).traffic = s.traffic := by
  unfold State.trunkEffect
  repeat' (first | split | (dsimp only; split))
  all_goals simp

/-- `trunkCommand` changes no field but trunkA, trunkB, ring, cmd, port. -/
@[simp] theorem State.trunkCommand_frame (s : State) (c : TrunkCommand) :
    (s.trunkCommand c).pending = s.pending ∧ (s.trunkCommand c).set = s.set ∧ (s.trunkCommand c).eng = s.eng ∧
    (s.trunkCommand c).xfer = s.xfer ∧ (s.trunkCommand c).stations = s.stations ∧
    (s.trunkCommand c).points = s.points ∧ (s.trunkCommand c).demands = s.demands ∧ (s.trunkCommand c).ram = s.ram ∧
    (s.trunkCommand c).time = s.time ∧ (s.trunkCommand c).lastGrant = s.lastGrant ∧
    (s.trunkCommand c).traffic = s.traffic := by
  unfold State.trunkCommand
  repeat' (first | split | (dsimp only; split))
  all_goals simp

/-- `releaseHeldTrunk` changes no field but trunkA, trunkB, ring, cmd, port. -/
@[simp] theorem State.releaseHeldTrunk_frame (s : State) (t : TrunkId) :
    (s.releaseHeldTrunk t).pending = s.pending ∧ (s.releaseHeldTrunk t).set = s.set ∧
    (s.releaseHeldTrunk t).eng = s.eng ∧ (s.releaseHeldTrunk t).xfer = s.xfer ∧
    (s.releaseHeldTrunk t).stations = s.stations ∧ (s.releaseHeldTrunk t).points = s.points ∧
    (s.releaseHeldTrunk t).demands = s.demands ∧ (s.releaseHeldTrunk t).ram = s.ram ∧
    (s.releaseHeldTrunk t).time = s.time ∧ (s.releaseHeldTrunk t).lastGrant = s.lastGrant ∧
    (s.releaseHeldTrunk t).traffic = s.traffic := by
  unfold State.releaseHeldTrunk
  repeat' (first | split | (dsimp only; split))
  all_goals simp

/-- `lineReport` changes no field but trunkA, trunkB, ring. -/
@[simp] theorem State.lineReport_frame (s : State) (x : Transfer) (o : OutcomeCode) :
    (s.lineReport x o).pending = s.pending ∧ (s.lineReport x o).port = s.port ∧ (s.lineReport x o).cmd = s.cmd ∧
    (s.lineReport x o).set = s.set ∧ (s.lineReport x o).eng = s.eng ∧ (s.lineReport x o).xfer = s.xfer ∧
    (s.lineReport x o).stations = s.stations ∧ (s.lineReport x o).points = s.points ∧
    (s.lineReport x o).demands = s.demands ∧ (s.lineReport x o).ram = s.ram ∧ (s.lineReport x o).time = s.time ∧
    (s.lineReport x o).lastGrant = s.lastGrant ∧ (s.lineReport x o).traffic = s.traffic := by
  unfold State.lineReport
  repeat' (first | split | (dsimp only; split))
  all_goals simp

/-! ## Stations -/

/-- `detach` changes no field but xfer. -/
@[simp] theorem State.detach_frame (s : State) (n : Nat) :
    (s.detach n).pending = s.pending ∧ (s.detach n).port = s.port ∧ (s.detach n).cmd = s.cmd ∧
    (s.detach n).set = s.set ∧ (s.detach n).eng = s.eng ∧ (s.detach n).stations = s.stations ∧
    (s.detach n).points = s.points ∧ (s.detach n).demands = s.demands ∧ (s.detach n).trunkA = s.trunkA ∧
    (s.detach n).trunkB = s.trunkB ∧ (s.detach n).ring = s.ring ∧ (s.detach n).ram = s.ram ∧
    (s.detach n).time = s.time ∧ (s.detach n).lastGrant = s.lastGrant ∧ (s.detach n).traffic = s.traffic := by
  unfold State.detach
  repeat' (first | split | (dsimp only; split))
  all_goals simp

/-- `stationEnable` changes no field but stations, ring, cmd, port. -/
@[simp] theorem State.stationEnable_frame (s : State) :
    s.stationEnable.pending = s.pending ∧ s.stationEnable.set = s.set ∧ s.stationEnable.eng = s.eng ∧
    s.stationEnable.xfer = s.xfer ∧ s.stationEnable.points = s.points ∧ s.stationEnable.demands = s.demands ∧
    s.stationEnable.trunkA = s.trunkA ∧ s.stationEnable.trunkB = s.trunkB ∧ s.stationEnable.ram = s.ram ∧
    s.stationEnable.time = s.time ∧ s.stationEnable.lastGrant = s.lastGrant ∧ s.stationEnable.traffic = s.traffic := by
  unfold State.stationEnable
  repeat' (first | split | (dsimp only; split))
  all_goals simp

/-- `stationDisable` changes no field but stations, ring, cmd, port, xfer. -/
@[simp] theorem State.stationDisable_frame (s : State) :
    s.stationDisable.pending = s.pending ∧ s.stationDisable.set = s.set ∧ s.stationDisable.eng = s.eng ∧
    s.stationDisable.points = s.points ∧ s.stationDisable.demands = s.demands ∧ s.stationDisable.trunkA = s.trunkA ∧
    s.stationDisable.trunkB = s.trunkB ∧ s.stationDisable.ram = s.ram ∧ s.stationDisable.time = s.time ∧
    s.stationDisable.lastGrant = s.lastGrant ∧ s.stationDisable.traffic = s.traffic := by
  unfold State.stationDisable
  repeat' (first | split | (dsimp only; split))
  all_goals simp

/-- `reportStation` changes no field but ring. -/
@[simp] theorem State.reportStation_frame (s : State) (x : Transfer) (o : OutcomeCode) (u v : StationState) (c : Nat) :
    (s.reportStation x o u v c).pending = s.pending ∧ (s.reportStation x o u v c).port = s.port ∧
    (s.reportStation x o u v c).cmd = s.cmd ∧ (s.reportStation x o u v c).set = s.set ∧
    (s.reportStation x o u v c).eng = s.eng ∧ (s.reportStation x o u v c).xfer = s.xfer ∧
    (s.reportStation x o u v c).stations = s.stations ∧ (s.reportStation x o u v c).points = s.points ∧
    (s.reportStation x o u v c).demands = s.demands ∧ (s.reportStation x o u v c).trunkA = s.trunkA ∧
    (s.reportStation x o u v c).trunkB = s.trunkB ∧ (s.reportStation x o u v c).ram = s.ram ∧
    (s.reportStation x o u v c).time = s.time ∧ (s.reportStation x o u v c).lastGrant = s.lastGrant ∧
    (s.reportStation x o u v c).traffic = s.traffic := by
  unfold State.reportStation
  repeat' (first | split | (dsimp only; split))
  all_goals simp

/-- `pointHealth` changes no field but stations, ring. -/
@[simp] theorem State.pointHealth_frame (s : State) (x : Transfer) (o : OutcomeCode) :
    (s.pointHealth x o).pending = s.pending ∧ (s.pointHealth x o).port = s.port ∧ (s.pointHealth x o).cmd = s.cmd ∧
    (s.pointHealth x o).set = s.set ∧ (s.pointHealth x o).eng = s.eng ∧ (s.pointHealth x o).xfer = s.xfer ∧
    (s.pointHealth x o).points = s.points ∧ (s.pointHealth x o).demands = s.demands ∧
    (s.pointHealth x o).trunkA = s.trunkA ∧ (s.pointHealth x o).trunkB = s.trunkB ∧
    (s.pointHealth x o).ram = s.ram ∧ (s.pointHealth x o).time = s.time ∧
    (s.pointHealth x o).lastGrant = s.lastGrant ∧ (s.pointHealth x o).traffic = s.traffic := by
  unfold State.pointHealth
  repeat' (first | split | (dsimp only; split))
  all_goals simp

/-- `probeHealth` changes no field but stations, ring. -/
@[simp] theorem State.probeHealth_frame (s : State) (x : Transfer) (o : OutcomeCode) :
    (s.probeHealth x o).pending = s.pending ∧ (s.probeHealth x o).port = s.port ∧ (s.probeHealth x o).cmd = s.cmd ∧
    (s.probeHealth x o).set = s.set ∧ (s.probeHealth x o).eng = s.eng ∧ (s.probeHealth x o).xfer = s.xfer ∧
    (s.probeHealth x o).points = s.points ∧ (s.probeHealth x o).demands = s.demands ∧
    (s.probeHealth x o).trunkA = s.trunkA ∧ (s.probeHealth x o).trunkB = s.trunkB ∧
    (s.probeHealth x o).ram = s.ram ∧ (s.probeHealth x o).time = s.time ∧
    (s.probeHealth x o).lastGrant = s.lastGrant ∧ (s.probeHealth x o).traffic = s.traffic := by
  unfold State.probeHealth
  repeat' (first | split | (dsimp only; split))
  all_goals simp

/-- `stationReport` changes no field but stations, ring. -/
@[simp] theorem State.stationReport_frame (s : State) (x : Transfer) (o : OutcomeCode) :
    (s.stationReport x o).pending = s.pending ∧ (s.stationReport x o).port = s.port ∧
    (s.stationReport x o).cmd = s.cmd ∧ (s.stationReport x o).set = s.set ∧ (s.stationReport x o).eng = s.eng ∧
    (s.stationReport x o).xfer = s.xfer ∧ (s.stationReport x o).points = s.points ∧
    (s.stationReport x o).demands = s.demands ∧ (s.stationReport x o).trunkA = s.trunkA ∧
    (s.stationReport x o).trunkB = s.trunkB ∧ (s.stationReport x o).ram = s.ram ∧
    (s.stationReport x o).time = s.time ∧ (s.stationReport x o).lastGrant = s.lastGrant ∧
    (s.stationReport x o).traffic = s.traffic := by
  unfold State.stationReport
  repeat' (first | split | (dsimp only; split))
  all_goals simp

/-- `reportCondition` changes no field but ring. -/
@[simp] theorem State.reportCondition_frame (s : State) (x : Transfer) (o : OutcomeCode) (c : BitVec 8) (f : Nat) :
    (s.reportCondition x o c f).pending = s.pending ∧ (s.reportCondition x o c f).port = s.port ∧
    (s.reportCondition x o c f).cmd = s.cmd ∧ (s.reportCondition x o c f).set = s.set ∧
    (s.reportCondition x o c f).eng = s.eng ∧ (s.reportCondition x o c f).xfer = s.xfer ∧
    (s.reportCondition x o c f).stations = s.stations ∧ (s.reportCondition x o c f).points = s.points ∧
    (s.reportCondition x o c f).demands = s.demands ∧ (s.reportCondition x o c f).trunkA = s.trunkA ∧
    (s.reportCondition x o c f).trunkB = s.trunkB ∧ (s.reportCondition x o c f).ram = s.ram ∧
    (s.reportCondition x o c f).time = s.time ∧ (s.reportCondition x o c f).lastGrant = s.lastGrant ∧
    (s.reportCondition x o c f).traffic = s.traffic := by
  unfold State.reportCondition
  repeat' (first | split | (dsimp only; split))
  all_goals simp

/-- `conditionReport` changes no field but stations, ring. -/
@[simp] theorem State.conditionReport_frame (s : State) (x : Transfer) (o : OutcomeCode) (c : BitVec 8) :
    (s.conditionReport x o c).pending = s.pending ∧ (s.conditionReport x o c).port = s.port ∧
    (s.conditionReport x o c).cmd = s.cmd ∧ (s.conditionReport x o c).set = s.set ∧
    (s.conditionReport x o c).eng = s.eng ∧ (s.conditionReport x o c).xfer = s.xfer ∧
    (s.conditionReport x o c).points = s.points ∧ (s.conditionReport x o c).demands = s.demands ∧
    (s.conditionReport x o c).trunkA = s.trunkA ∧ (s.conditionReport x o c).trunkB = s.trunkB ∧
    (s.conditionReport x o c).ram = s.ram ∧ (s.conditionReport x o c).time = s.time ∧
    (s.conditionReport x o c).lastGrant = s.lastGrant ∧ (s.conditionReport x o c).traffic = s.traffic := by
  unfold State.conditionReport
  repeat' (first | split | (dsimp only; split))
  all_goals simp

/-- `ageStations` changes no field but stations. -/
@[simp] theorem State.ageStations_frame (s : State) :
    s.ageStations.pending = s.pending ∧ s.ageStations.port = s.port ∧ s.ageStations.cmd = s.cmd ∧
    s.ageStations.set = s.set ∧ s.ageStations.eng = s.eng ∧ s.ageStations.xfer = s.xfer ∧
    s.ageStations.points = s.points ∧ s.ageStations.demands = s.demands ∧ s.ageStations.trunkA = s.trunkA ∧
    s.ageStations.trunkB = s.trunkB ∧ s.ageStations.ring = s.ring ∧ s.ageStations.ram = s.ram ∧
    s.ageStations.time = s.time ∧ s.ageStations.lastGrant = s.lastGrant ∧ s.ageStations.traffic = s.traffic := by
  unfold State.ageStations
  repeat' (first | split | (dsimp only; split))
  all_goals simp

/-! ## Points -/

/-- `reportUpdate` changes no field but ring. -/
@[simp] theorem State.reportUpdate_frame (s : State) (b : Bool) (t : Option TrunkId) (n : Nat) (o : OutcomeCode) (p : BitVec 8) :
    (s.reportUpdate b t n o p).pending = s.pending ∧ (s.reportUpdate b t n o p).port = s.port ∧
    (s.reportUpdate b t n o p).cmd = s.cmd ∧ (s.reportUpdate b t n o p).set = s.set ∧
    (s.reportUpdate b t n o p).eng = s.eng ∧ (s.reportUpdate b t n o p).xfer = s.xfer ∧
    (s.reportUpdate b t n o p).stations = s.stations ∧ (s.reportUpdate b t n o p).points = s.points ∧
    (s.reportUpdate b t n o p).demands = s.demands ∧ (s.reportUpdate b t n o p).trunkA = s.trunkA ∧
    (s.reportUpdate b t n o p).trunkB = s.trunkB ∧ (s.reportUpdate b t n o p).ram = s.ram ∧
    (s.reportUpdate b t n o p).time = s.time ∧ (s.reportUpdate b t n o p).lastGrant = s.lastGrant ∧
    (s.reportUpdate b t n o p).traffic = s.traffic := by
  unfold State.reportUpdate
  repeat' (first | split | (dsimp only; split))
  all_goals simp

/-- `receptionStart` changes no field but points. -/
@[simp] theorem State.receptionStart_frame (s : State) (p : BitVec 8) :
    (s.receptionStart p).pending = s.pending ∧ (s.receptionStart p).port = s.port ∧
    (s.receptionStart p).cmd = s.cmd ∧ (s.receptionStart p).set = s.set ∧ (s.receptionStart p).eng = s.eng ∧
    (s.receptionStart p).xfer = s.xfer ∧ (s.receptionStart p).stations = s.stations ∧
    (s.receptionStart p).demands = s.demands ∧ (s.receptionStart p).trunkA = s.trunkA ∧
    (s.receptionStart p).trunkB = s.trunkB ∧ (s.receptionStart p).ring = s.ring ∧ (s.receptionStart p).ram = s.ram ∧
    (s.receptionStart p).time = s.time ∧ (s.receptionStart p).lastGrant = s.lastGrant ∧
    (s.receptionStart p).traffic = s.traffic := by
  unfold State.receptionStart
  repeat' (first | split | (dsimp only; split))
  all_goals simp

/-- `pointReport` changes no field but points, ring. -/
@[simp] theorem State.pointReport_frame (s : State) (x : Transfer) (o : OutcomeCode) :
    (s.pointReport x o).pending = s.pending ∧ (s.pointReport x o).port = s.port ∧ (s.pointReport x o).cmd = s.cmd ∧
    (s.pointReport x o).set = s.set ∧ (s.pointReport x o).eng = s.eng ∧ (s.pointReport x o).xfer = s.xfer ∧
    (s.pointReport x o).stations = s.stations ∧ (s.pointReport x o).demands = s.demands ∧
    (s.pointReport x o).trunkA = s.trunkA ∧ (s.pointReport x o).trunkB = s.trunkB ∧
    (s.pointReport x o).ram = s.ram ∧ (s.pointReport x o).time = s.time ∧
    (s.pointReport x o).lastGrant = s.lastGrant ∧ (s.pointReport x o).traffic = s.traffic := by
  unfold State.pointReport
  repeat' (first | split | (dsimp only; split))
  all_goals simp

/-- `pointCommand` changes no field but cmd, port, traffic. -/
@[simp] theorem State.pointCommand_frame (s : State) (c : PointCommand) :
    (s.pointCommand c).pending = s.pending ∧ (s.pointCommand c).set = s.set ∧ (s.pointCommand c).eng = s.eng ∧
    (s.pointCommand c).xfer = s.xfer ∧ (s.pointCommand c).stations = s.stations ∧
    (s.pointCommand c).points = s.points ∧ (s.pointCommand c).demands = s.demands ∧
    (s.pointCommand c).trunkA = s.trunkA ∧ (s.pointCommand c).trunkB = s.trunkB ∧ (s.pointCommand c).ring = s.ring ∧
    (s.pointCommand c).ram = s.ram ∧ (s.pointCommand c).time = s.time ∧ (s.pointCommand c).lastGrant = s.lastGrant := by
  unfold State.pointCommand
  repeat' (first | split | (dsimp only; split))
  all_goals simp

/-- `hold` changes no field but points, cmd, port. -/
@[simp] theorem State.hold_frame (s : State) (p : BitVec 8) :
    (s.hold p).pending = s.pending ∧ (s.hold p).set = s.set ∧ (s.hold p).eng = s.eng ∧ (s.hold p).xfer = s.xfer ∧
    (s.hold p).stations = s.stations ∧ (s.hold p).demands = s.demands ∧ (s.hold p).trunkA = s.trunkA ∧
    (s.hold p).trunkB = s.trunkB ∧ (s.hold p).ring = s.ring ∧ (s.hold p).ram = s.ram ∧ (s.hold p).time = s.time ∧
    (s.hold p).lastGrant = s.lastGrant ∧ (s.hold p).traffic = s.traffic := by
  unfold State.hold
  repeat' (first | split | (dsimp only; split))
  all_goals simp

/-- `release` changes no field but points, ring, cmd, port. -/
@[simp] theorem State.release_frame (s : State) (p : BitVec 8) (n : Nat) (b : Bool) :
    (s.release p n b).pending = s.pending ∧ (s.release p n b).set = s.set ∧ (s.release p n b).eng = s.eng ∧
    (s.release p n b).xfer = s.xfer ∧ (s.release p n b).stations = s.stations ∧
    (s.release p n b).demands = s.demands ∧ (s.release p n b).trunkA = s.trunkA ∧
    (s.release p n b).trunkB = s.trunkB ∧ (s.release p n b).ram = s.ram ∧ (s.release p n b).time = s.time ∧
    (s.release p n b).lastGrant = s.lastGrant ∧ (s.release p n b).traffic = s.traffic := by
  unfold State.release
  repeat' (first | split | (dsimp only; split))
  all_goals simp

/-- `commit` changes no field but points, cmd, port. -/
@[simp] theorem State.commit_frame (s : State) (p : BitVec 8) :
    (s.commit p).pending = s.pending ∧ (s.commit p).set = s.set ∧ (s.commit p).eng = s.eng ∧
    (s.commit p).xfer = s.xfer ∧ (s.commit p).stations = s.stations ∧ (s.commit p).demands = s.demands ∧
    (s.commit p).trunkA = s.trunkA ∧ (s.commit p).trunkB = s.trunkB ∧ (s.commit p).ring = s.ring ∧
    (s.commit p).ram = s.ram ∧ (s.commit p).time = s.time ∧ (s.commit p).lastGrant = s.lastGrant ∧
    (s.commit p).traffic = s.traffic := by
  unfold State.commit
  repeat' (first | split | (dsimp only; split))
  all_goals simp

/-- `pointChecked` changes no field but points, ring, cmd, port, traffic. -/
@[simp] theorem State.pointChecked_frame (s : State) (c : PointCommand) (p : BitVec 8) :
    (s.pointChecked c p).pending = s.pending ∧ (s.pointChecked c p).set = s.set ∧
    (s.pointChecked c p).eng = s.eng ∧ (s.pointChecked c p).xfer = s.xfer ∧
    (s.pointChecked c p).stations = s.stations ∧ (s.pointChecked c p).demands = s.demands ∧
    (s.pointChecked c p).trunkA = s.trunkA ∧ (s.pointChecked c p).trunkB = s.trunkB ∧
    (s.pointChecked c p).ram = s.ram ∧ (s.pointChecked c p).time = s.time ∧ (s.pointChecked c p).lastGrant = s.lastGrant := by
  unfold State.pointChecked
  repeat' (first | split | (dsimp only; split))
  all_goals simp

/-- `pointReadDone` changes no field but points, ring, cmd, port, traffic, lastGrant, ram. -/
@[simp] theorem State.pointReadDone_frame (s : State) (c : PointCommand) (p : BitVec 8) :
    (s.pointReadDone c p).pending = s.pending ∧ (s.pointReadDone c p).set = s.set ∧
    (s.pointReadDone c p).eng = s.eng ∧ (s.pointReadDone c p).xfer = s.xfer ∧
    (s.pointReadDone c p).stations = s.stations ∧ (s.pointReadDone c p).demands = s.demands ∧
    (s.pointReadDone c p).trunkA = s.trunkA ∧ (s.pointReadDone c p).trunkB = s.trunkB ∧
    (s.pointReadDone c p).time = s.time := by
  unfold State.pointReadDone
  repeat' (first | split | (dsimp only; split))
  all_goals simp

/-! ## Demands -/

/-- `returnDemand` changes no field but demands. -/
@[simp] theorem State.returnDemand_frame (s : State) :
    s.returnDemand.pending = s.pending ∧ s.returnDemand.port = s.port ∧ s.returnDemand.cmd = s.cmd ∧
    s.returnDemand.set = s.set ∧ s.returnDemand.eng = s.eng ∧ s.returnDemand.xfer = s.xfer ∧
    s.returnDemand.stations = s.stations ∧ s.returnDemand.points = s.points ∧ s.returnDemand.trunkA = s.trunkA ∧
    s.returnDemand.trunkB = s.trunkB ∧ s.returnDemand.ring = s.ring ∧ s.returnDemand.ram = s.ram ∧
    s.returnDemand.time = s.time ∧ s.returnDemand.lastGrant = s.lastGrant ∧ s.returnDemand.traffic = s.traffic := by
  unfold State.returnDemand
  repeat' (first | split | (dsimp only; split))
  all_goals simp

/-- `dropInFlight` changes no field but demands. -/
@[simp] theorem State.dropInFlight_frame (s : State) :
    s.dropInFlight.pending = s.pending ∧ s.dropInFlight.port = s.port ∧ s.dropInFlight.cmd = s.cmd ∧
    s.dropInFlight.set = s.set ∧ s.dropInFlight.eng = s.eng ∧ s.dropInFlight.xfer = s.xfer ∧
    s.dropInFlight.stations = s.stations ∧ s.dropInFlight.points = s.points ∧ s.dropInFlight.trunkA = s.trunkA ∧
    s.dropInFlight.trunkB = s.trunkB ∧ s.dropInFlight.ring = s.ring ∧ s.dropInFlight.ram = s.ram ∧
    s.dropInFlight.time = s.time ∧ s.dropInFlight.lastGrant = s.lastGrant ∧ s.dropInFlight.traffic = s.traffic := by
  unfold State.dropInFlight
  repeat' (first | split | (dsimp only; split))
  all_goals simp

/-- `reportDemand` changes no field but ring. -/
@[simp] theorem State.reportDemand_frame (s : State) (d : Demand) (t : Option TrunkId) (o : OutcomeCode) (h : Nat) :
    (s.reportDemand d t o h).pending = s.pending ∧ (s.reportDemand d t o h).port = s.port ∧
    (s.reportDemand d t o h).cmd = s.cmd ∧ (s.reportDemand d t o h).set = s.set ∧
    (s.reportDemand d t o h).eng = s.eng ∧ (s.reportDemand d t o h).xfer = s.xfer ∧
    (s.reportDemand d t o h).stations = s.stations ∧ (s.reportDemand d t o h).points = s.points ∧
    (s.reportDemand d t o h).demands = s.demands ∧ (s.reportDemand d t o h).trunkA = s.trunkA ∧
    (s.reportDemand d t o h).trunkB = s.trunkB ∧ (s.reportDemand d t o h).ram = s.ram ∧
    (s.reportDemand d t o h).time = s.time ∧ (s.reportDemand d t o h).lastGrant = s.lastGrant ∧
    (s.reportDemand d t o h).traffic = s.traffic := by
  unfold State.reportDemand
  repeat' (first | split | (dsimp only; split))
  all_goals simp

/-- `demandReport` changes no field but demands, ring. -/
@[simp] theorem State.demandReport_frame (s : State) (x : Transfer) (o : OutcomeCode) :
    (s.demandReport x o).pending = s.pending ∧ (s.demandReport x o).port = s.port ∧
    (s.demandReport x o).cmd = s.cmd ∧ (s.demandReport x o).set = s.set ∧ (s.demandReport x o).eng = s.eng ∧
    (s.demandReport x o).xfer = s.xfer ∧ (s.demandReport x o).stations = s.stations ∧
    (s.demandReport x o).points = s.points ∧ (s.demandReport x o).trunkA = s.trunkA ∧
    (s.demandReport x o).trunkB = s.trunkB ∧ (s.demandReport x o).ram = s.ram ∧ (s.demandReport x o).time = s.time ∧
    (s.demandReport x o).lastGrant = s.lastGrant ∧ (s.demandReport x o).traffic = s.traffic := by
  unfold State.demandReport
  repeat' (first | split | (dsimp only; split))
  all_goals simp

/-- `demandPost` changes no field but cmd, port, traffic. -/
@[simp] theorem State.demandPost_frame (s : State) :
    s.demandPost.pending = s.pending ∧ s.demandPost.set = s.set ∧ s.demandPost.eng = s.eng ∧
    s.demandPost.xfer = s.xfer ∧ s.demandPost.stations = s.stations ∧ s.demandPost.points = s.points ∧
    s.demandPost.demands = s.demands ∧ s.demandPost.trunkA = s.trunkA ∧ s.demandPost.trunkB = s.trunkB ∧
    s.demandPost.ring = s.ring ∧ s.demandPost.ram = s.ram ∧ s.demandPost.time = s.time ∧
    s.demandPost.lastGrant = s.lastGrant := by
  unfold State.demandPost
  repeat' (first | split | (dsimp only; split))
  all_goals simp

/-- `judgePost` changes no field but demands, cmd, port. -/
@[simp] theorem State.judgePost_frame (s : State) (p : BitVec 8) (h : Bool) (d : Nat) (t : BitVec 8) (n : Nat) :
    (s.judgePost p h d t n).pending = s.pending ∧ (s.judgePost p h d t n).set = s.set ∧
    (s.judgePost p h d t n).eng = s.eng ∧ (s.judgePost p h d t n).xfer = s.xfer ∧
    (s.judgePost p h d t n).stations = s.stations ∧ (s.judgePost p h d t n).points = s.points ∧
    (s.judgePost p h d t n).trunkA = s.trunkA ∧ (s.judgePost p h d t n).trunkB = s.trunkB ∧
    (s.judgePost p h d t n).ring = s.ring ∧ (s.judgePost p h d t n).ram = s.ram ∧
    (s.judgePost p h d t n).time = s.time ∧ (s.judgePost p h d t n).lastGrant = s.lastGrant ∧
    (s.judgePost p h d t n).traffic = s.traffic := by
  unfold State.judgePost
  repeat' (first | split | (dsimp only; split))
  all_goals simp

/-- `postChecked` changes no field but demands, cmd, port, traffic. -/
@[simp] theorem State.postChecked_frame (s : State) (p : BitVec 8) (h : Bool) (d : Nat) (t : BitVec 8) :
    (s.postChecked p h d t).pending = s.pending ∧ (s.postChecked p h d t).set = s.set ∧
    (s.postChecked p h d t).eng = s.eng ∧ (s.postChecked p h d t).xfer = s.xfer ∧
    (s.postChecked p h d t).stations = s.stations ∧ (s.postChecked p h d t).points = s.points ∧
    (s.postChecked p h d t).trunkA = s.trunkA ∧ (s.postChecked p h d t).trunkB = s.trunkB ∧
    (s.postChecked p h d t).ring = s.ring ∧ (s.postChecked p h d t).ram = s.ram ∧
    (s.postChecked p h d t).time = s.time ∧ (s.postChecked p h d t).lastGrant = s.lastGrant := by
  unfold State.postChecked
  repeat' (first | split | (dsimp only; split))
  all_goals simp

/-- `postCheckDone` changes no field but demands, cmd, port, traffic, lastGrant, ram. -/
@[simp] theorem State.postCheckDone_frame (s : State) (p : BitVec 8) (h : Bool) (d : Nat) (t : BitVec 8) :
    (s.postCheckDone p h d t).pending = s.pending ∧ (s.postCheckDone p h d t).set = s.set ∧
    (s.postCheckDone p h d t).eng = s.eng ∧ (s.postCheckDone p h d t).xfer = s.xfer ∧
    (s.postCheckDone p h d t).stations = s.stations ∧ (s.postCheckDone p h d t).points = s.points ∧
    (s.postCheckDone p h d t).trunkA = s.trunkA ∧ (s.postCheckDone p h d t).trunkB = s.trunkB ∧
    (s.postCheckDone p h d t).ring = s.ring ∧ (s.postCheckDone p h d t).time = s.time := by
  unfold State.postCheckDone
  repeat' (first | split | (dsimp only; split))
  all_goals simp

/-- `reportExpired` changes no field but ring. -/
@[simp] theorem State.reportExpired_frame : ∀ (l : List Demand) (s : State),
    (s.reportExpired l).pending = s.pending ∧
    (s.reportExpired l).port = s.port ∧
    (s.reportExpired l).cmd = s.cmd ∧
    (s.reportExpired l).set = s.set ∧
    (s.reportExpired l).eng = s.eng ∧
    (s.reportExpired l).xfer = s.xfer ∧
    (s.reportExpired l).stations = s.stations ∧
    (s.reportExpired l).points = s.points ∧
    (s.reportExpired l).demands = s.demands ∧
    (s.reportExpired l).trunkA = s.trunkA ∧
    (s.reportExpired l).trunkB = s.trunkB ∧
    (s.reportExpired l).ram = s.ram ∧
    (s.reportExpired l).time = s.time ∧
    (s.reportExpired l).lastGrant = s.lastGrant ∧
    (s.reportExpired l).traffic = s.traffic
  | [], _ => by and_intros <;> rfl
  | d :: rest, s => by
    have h := State.reportExpired_frame rest (s.reportDemand d none .expired 0)
    simpa only [State.reportExpired, State.reportDemand_frame] using h

/-- `ageDemands` changes no field but demands, ring. -/
@[simp] theorem State.ageDemands_frame (s : State) :
    s.ageDemands.pending = s.pending ∧ s.ageDemands.port = s.port ∧ s.ageDemands.cmd = s.cmd ∧
    s.ageDemands.set = s.set ∧ s.ageDemands.eng = s.eng ∧ s.ageDemands.xfer = s.xfer ∧
    s.ageDemands.stations = s.stations ∧ s.ageDemands.points = s.points ∧ s.ageDemands.trunkA = s.trunkA ∧
    s.ageDemands.trunkB = s.trunkB ∧ s.ageDemands.ram = s.ram ∧ s.ageDemands.time = s.time ∧
    s.ageDemands.lastGrant = s.lastGrant ∧ s.ageDemands.traffic = s.traffic := by
  unfold State.ageDemands
  repeat' (first | split | (dsimp only; split))
  all_goals simp

/-- `demandCancel` changes no field but demands, ring, cmd, port. -/
@[simp] theorem State.demandCancel_frame (s : State) :
    s.demandCancel.pending = s.pending ∧ s.demandCancel.set = s.set ∧ s.demandCancel.eng = s.eng ∧
    s.demandCancel.xfer = s.xfer ∧ s.demandCancel.stations = s.stations ∧ s.demandCancel.points = s.points ∧
    s.demandCancel.trunkA = s.trunkA ∧ s.demandCancel.trunkB = s.trunkB ∧ s.demandCancel.ram = s.ram ∧
    s.demandCancel.time = s.time ∧ s.demandCancel.lastGrant = s.lastGrant ∧ s.demandCancel.traffic = s.traffic := by
  unfold State.demandCancel
  repeat' (first | split | (dsimp only; split))
  all_goals simp

/-! ## Plan -/

/-- `activate` changes no field but eng, ring. -/
@[simp] theorem State.activate_frame (s : State) (g : Geometry) :
    (s.activate g).pending = s.pending ∧ (s.activate g).port = s.port ∧ (s.activate g).cmd = s.cmd ∧
    (s.activate g).set = s.set ∧ (s.activate g).xfer = s.xfer ∧ (s.activate g).stations = s.stations ∧
    (s.activate g).points = s.points ∧ (s.activate g).demands = s.demands ∧ (s.activate g).trunkA = s.trunkA ∧
    (s.activate g).trunkB = s.trunkB ∧ (s.activate g).ram = s.ram ∧ (s.activate g).time = s.time ∧
    (s.activate g).lastGrant = s.lastGrant ∧ (s.activate g).traffic = s.traffic := by
  unfold State.activate
  repeat' (first | split | (dsimp only; split))
  all_goals simp

/-- `applyPending` changes no field but eng, ring. -/
@[simp] theorem State.applyPending_frame (s : State) :
    s.applyPending.pending = s.pending ∧ s.applyPending.port = s.port ∧ s.applyPending.cmd = s.cmd ∧
    s.applyPending.set = s.set ∧ s.applyPending.xfer = s.xfer ∧ s.applyPending.stations = s.stations ∧
    s.applyPending.points = s.points ∧ s.applyPending.demands = s.demands ∧ s.applyPending.trunkA = s.trunkA ∧
    s.applyPending.trunkB = s.trunkB ∧ s.applyPending.ram = s.ram ∧ s.applyPending.time = s.time ∧
    s.applyPending.lastGrant = s.lastGrant ∧ s.applyPending.traffic = s.traffic := by
  unfold State.applyPending
  repeat' (first | split | (dsimp only; split))
  all_goals simp

/-- `beginValidation` changes no field but cmd, traffic. -/
@[simp] theorem State.beginValidation_frame (s : State) (f : Bool) (b : Bank) :
    (s.beginValidation f b).pending = s.pending ∧ (s.beginValidation f b).port = s.port ∧
    (s.beginValidation f b).set = s.set ∧ (s.beginValidation f b).eng = s.eng ∧
    (s.beginValidation f b).xfer = s.xfer ∧ (s.beginValidation f b).stations = s.stations ∧
    (s.beginValidation f b).points = s.points ∧ (s.beginValidation f b).demands = s.demands ∧
    (s.beginValidation f b).trunkA = s.trunkA ∧ (s.beginValidation f b).trunkB = s.trunkB ∧
    (s.beginValidation f b).ring = s.ring ∧ (s.beginValidation f b).ram = s.ram ∧
    (s.beginValidation f b).time = s.time ∧ (s.beginValidation f b).lastGrant = s.lastGrant := by
  unfold State.beginValidation
  repeat' (first | split | (dsimp only; split))
  all_goals simp

/-- `cancelSwitch` changes no field but eng, cmd, port. -/
@[simp] theorem State.cancelSwitch_frame (s : State) :
    s.cancelSwitch.pending = s.pending ∧ s.cancelSwitch.set = s.set ∧ s.cancelSwitch.xfer = s.xfer ∧
    s.cancelSwitch.stations = s.stations ∧ s.cancelSwitch.points = s.points ∧ s.cancelSwitch.demands = s.demands ∧
    s.cancelSwitch.trunkA = s.trunkA ∧ s.cancelSwitch.trunkB = s.trunkB ∧ s.cancelSwitch.ring = s.ring ∧
    s.cancelSwitch.ram = s.ram ∧ s.cancelSwitch.time = s.time ∧ s.cancelSwitch.lastGrant = s.lastGrant ∧
    s.cancelSwitch.traffic = s.traffic := by
  unfold State.cancelSwitch
  repeat' (first | split | (dsimp only; split))
  all_goals simp

/-- `switchPlan` changes no field but eng, cmd, port, traffic. -/
@[simp] theorem State.switchPlan_frame (s : State) :
    s.switchPlan.pending = s.pending ∧ s.switchPlan.set = s.set ∧ s.switchPlan.xfer = s.xfer ∧
    s.switchPlan.stations = s.stations ∧ s.switchPlan.points = s.points ∧ s.switchPlan.demands = s.demands ∧
    s.switchPlan.trunkA = s.trunkA ∧ s.switchPlan.trunkB = s.trunkB ∧ s.switchPlan.ring = s.ring ∧
    s.switchPlan.ram = s.ram ∧ s.switchPlan.time = s.time ∧ s.switchPlan.lastGrant = s.lastGrant := by
  unfold State.switchPlan
  repeat' (first | split | (dsimp only; split))
  all_goals simp

/-- `validatePlan` changes no field but cmd, port, traffic. -/
@[simp] theorem State.validatePlan_frame (s : State) :
    s.validatePlan.pending = s.pending ∧ s.validatePlan.set = s.set ∧ s.validatePlan.eng = s.eng ∧
    s.validatePlan.xfer = s.xfer ∧ s.validatePlan.stations = s.stations ∧ s.validatePlan.points = s.points ∧
    s.validatePlan.demands = s.demands ∧ s.validatePlan.trunkA = s.trunkA ∧ s.validatePlan.trunkB = s.trunkB ∧
    s.validatePlan.ring = s.ring ∧ s.validatePlan.ram = s.ram ∧ s.validatePlan.time = s.time ∧
    s.validatePlan.lastGrant = s.lastGrant := by
  unfold State.validatePlan
  repeat' (first | split | (dsimp only; split))
  all_goals simp

/-- `switchTo` changes no field but eng, ring, cmd, port. -/
@[simp] theorem State.switchTo_frame (s : State) (g : Geometry) :
    (s.switchTo g).pending = s.pending ∧ (s.switchTo g).set = s.set ∧ (s.switchTo g).xfer = s.xfer ∧
    (s.switchTo g).stations = s.stations ∧ (s.switchTo g).points = s.points ∧ (s.switchTo g).demands = s.demands ∧
    (s.switchTo g).trunkA = s.trunkA ∧ (s.switchTo g).trunkB = s.trunkB ∧ (s.switchTo g).ram = s.ram ∧
    (s.switchTo g).time = s.time ∧ (s.switchTo g).lastGrant = s.lastGrant ∧ (s.switchTo g).traffic = s.traffic := by
  unfold State.switchTo
  repeat' (first | split | (dsimp only; split))
  all_goals simp

/-- `validated` changes no field but eng, ring, cmd, port, traffic. -/
@[simp] theorem State.validated_frame (s : State) (f : Bool) (b : Bank) (n : Nat) :
    (s.validated f b n).pending = s.pending ∧ (s.validated f b n).set = s.set ∧
    (s.validated f b n).xfer = s.xfer ∧ (s.validated f b n).stations = s.stations ∧
    (s.validated f b n).points = s.points ∧ (s.validated f b n).demands = s.demands ∧
    (s.validated f b n).trunkA = s.trunkA ∧ (s.validated f b n).trunkB = s.trunkB ∧
    (s.validated f b n).ram = s.ram ∧ (s.validated f b n).time = s.time ∧ (s.validated f b n).lastGrant = s.lastGrant := by
  unfold State.validated
  repeat' (first | split | (dsimp only; split))
  all_goals simp

/-- `validationDone` changes no field but eng, ring, cmd, port, traffic, lastGrant, ram. -/
@[simp] theorem State.validationDone_frame (s : State) (f : Bool) (b : Bank) (n : Nat) :
    (s.validationDone f b n).pending = s.pending ∧ (s.validationDone f b n).set = s.set ∧
    (s.validationDone f b n).xfer = s.xfer ∧ (s.validationDone f b n).stations = s.stations ∧
    (s.validationDone f b n).points = s.points ∧ (s.validationDone f b n).demands = s.demands ∧
    (s.validationDone f b n).trunkA = s.trunkA ∧ (s.validationDone f b n).trunkB = s.trunkB ∧
    (s.validationDone f b n).time = s.time := by
  unfold State.validationDone
  repeat' (first | split | (dsimp only; split))
  all_goals simp

/-! ## Rounds -/

/-- `changeEngine` changes no field but eng, ring. -/
@[simp] theorem State.changeEngine_frame (s : State) (e : EngineState) (p : StopPoint) (c : Nat) :
    (s.changeEngine e p c).pending = s.pending ∧ (s.changeEngine e p c).port = s.port ∧
    (s.changeEngine e p c).cmd = s.cmd ∧ (s.changeEngine e p c).set = s.set ∧ (s.changeEngine e p c).xfer = s.xfer ∧
    (s.changeEngine e p c).stations = s.stations ∧ (s.changeEngine e p c).points = s.points ∧
    (s.changeEngine e p c).demands = s.demands ∧ (s.changeEngine e p c).trunkA = s.trunkA ∧
    (s.changeEngine e p c).trunkB = s.trunkB ∧ (s.changeEngine e p c).ram = s.ram ∧
    (s.changeEngine e p c).time = s.time ∧ (s.changeEngine e p c).lastGrant = s.lastGrant ∧
    (s.changeEngine e p c).traffic = s.traffic := by
  unfold State.changeEngine
  repeat' (first | split | (dsimp only; split))
  all_goals simp

/-- `stopEngine` changes no field but eng, ring, port, traffic. -/
@[simp] theorem State.stopEngine_frame (s : State) (e : EngineState) (h : HaltCause) (c : Nat) :
    (s.stopEngine e h c).pending = s.pending ∧ (s.stopEngine e h c).cmd = s.cmd ∧ (s.stopEngine e h c).set = s.set ∧
    (s.stopEngine e h c).xfer = s.xfer ∧ (s.stopEngine e h c).stations = s.stations ∧
    (s.stopEngine e h c).points = s.points ∧ (s.stopEngine e h c).demands = s.demands ∧
    (s.stopEngine e h c).trunkA = s.trunkA ∧ (s.stopEngine e h c).trunkB = s.trunkB ∧
    (s.stopEngine e h c).ram = s.ram ∧ (s.stopEngine e h c).time = s.time ∧
    (s.stopEngine e h c).lastGrant = s.lastGrant := by
  unfold State.stopEngine
  repeat' (first | split | (dsimp only; split))
  all_goals simp

/-- `beginSlot` changes no field but eng, traffic. -/
@[simp] theorem State.beginSlot_frame (s : State) (i : Nat) :
    (s.beginSlot i).pending = s.pending ∧ (s.beginSlot i).port = s.port ∧ (s.beginSlot i).cmd = s.cmd ∧
    (s.beginSlot i).set = s.set ∧ (s.beginSlot i).xfer = s.xfer ∧ (s.beginSlot i).stations = s.stations ∧
    (s.beginSlot i).points = s.points ∧ (s.beginSlot i).demands = s.demands ∧ (s.beginSlot i).trunkA = s.trunkA ∧
    (s.beginSlot i).trunkB = s.trunkB ∧ (s.beginSlot i).ring = s.ring ∧ (s.beginSlot i).ram = s.ram ∧
    (s.beginSlot i).time = s.time ∧ (s.beginSlot i).lastGrant = s.lastGrant := by
  unfold State.beginSlot
  repeat' (first | split | (dsimp only; split))
  all_goals simp

/-- `beginRound` changes no field but eng, stations, demands, ring, traffic. -/
@[simp] theorem State.beginRound_frame (s : State) (r : Nat) :
    (s.beginRound r).pending = s.pending ∧ (s.beginRound r).port = s.port ∧ (s.beginRound r).cmd = s.cmd ∧
    (s.beginRound r).set = s.set ∧ (s.beginRound r).xfer = s.xfer ∧ (s.beginRound r).points = s.points ∧
    (s.beginRound r).trunkA = s.trunkA ∧ (s.beginRound r).trunkB = s.trunkB ∧ (s.beginRound r).ram = s.ram ∧
    (s.beginRound r).time = s.time ∧ (s.beginRound r).lastGrant = s.lastGrant := by
  unfold State.beginRound
  repeat' (first | split | (dsimp only; split))
  all_goals simp

/-- `beginSweep` changes no field but eng, stations, demands, ring, traffic. -/
@[simp] theorem State.beginSweep_frame (s : State) :
    s.beginSweep.pending = s.pending ∧ s.beginSweep.port = s.port ∧ s.beginSweep.cmd = s.cmd ∧
    s.beginSweep.set = s.set ∧ s.beginSweep.xfer = s.xfer ∧ s.beginSweep.points = s.points ∧
    s.beginSweep.trunkA = s.trunkA ∧ s.beginSweep.trunkB = s.trunkB ∧ s.beginSweep.ram = s.ram ∧
    s.beginSweep.time = s.time ∧ s.beginSweep.lastGrant = s.lastGrant := by
  unfold State.beginSweep
  repeat' (first | split | (dsimp only; split))
  all_goals simp

/-- `sweepBoundary` changes no field but eng, stations, demands, ring, traffic, port. -/
@[simp] theorem State.sweepBoundary_frame (s : State) :
    s.sweepBoundary.pending = s.pending ∧ s.sweepBoundary.cmd = s.cmd ∧ s.sweepBoundary.set = s.set ∧
    s.sweepBoundary.xfer = s.xfer ∧ s.sweepBoundary.points = s.points ∧ s.sweepBoundary.trunkA = s.trunkA ∧
    s.sweepBoundary.trunkB = s.trunkB ∧ s.sweepBoundary.ram = s.ram ∧ s.sweepBoundary.time = s.time ∧
    s.sweepBoundary.lastGrant = s.lastGrant := by
  unfold State.sweepBoundary
  repeat' (first | split | (dsimp only; split))
  all_goals simp

/-- `endRound` changes no field but eng, stations, demands, ring, traffic, port. -/
@[simp] theorem State.endRound_frame (s : State) :
    s.endRound.pending = s.pending ∧ s.endRound.cmd = s.cmd ∧ s.endRound.set = s.set ∧ s.endRound.xfer = s.xfer ∧
    s.endRound.points = s.points ∧ s.endRound.trunkA = s.trunkA ∧ s.endRound.trunkB = s.trunkB ∧
    s.endRound.ram = s.ram ∧ s.endRound.time = s.time ∧ s.endRound.lastGrant = s.lastGrant := by
  unfold State.endRound
  repeat' (first | split | (dsimp only; split))
  all_goals simp

/-- `afterSlot` changes no field but eng, stations, demands, ring, traffic, port. -/
@[simp] theorem State.afterSlot_frame (s : State) :
    s.afterSlot.pending = s.pending ∧ s.afterSlot.cmd = s.cmd ∧ s.afterSlot.set = s.set ∧
    s.afterSlot.xfer = s.xfer ∧ s.afterSlot.points = s.points ∧ s.afterSlot.trunkA = s.trunkA ∧
    s.afterSlot.trunkB = s.trunkB ∧ s.afterSlot.ram = s.ram ∧ s.afterSlot.time = s.time ∧
    s.afterSlot.lastGrant = s.lastGrant := by
  unfold State.afterSlot
  repeat' (first | split | (dsimp only; split))
  all_goals simp

/-- `endSlot` changes no field but eng, stations, demands, ring, traffic, port. -/
@[simp] theorem State.endSlot_frame (s : State) :
    s.endSlot.pending = s.pending ∧ s.endSlot.cmd = s.cmd ∧ s.endSlot.set = s.set ∧ s.endSlot.xfer = s.xfer ∧
    s.endSlot.points = s.points ∧ s.endSlot.trunkA = s.trunkA ∧ s.endSlot.trunkB = s.trunkB ∧
    s.endSlot.ram = s.ram ∧ s.endSlot.time = s.time ∧ s.endSlot.lastGrant = s.lastGrant := by
  unfold State.endSlot
  repeat' (first | split | (dsimp only; split))
  all_goals simp

/-- `reportNoTrunk` changes no field but eng, ring. -/
@[simp] theorem State.reportNoTrunk_frame (s : State) :
    s.reportNoTrunk.pending = s.pending ∧ s.reportNoTrunk.port = s.port ∧ s.reportNoTrunk.cmd = s.cmd ∧
    s.reportNoTrunk.set = s.set ∧ s.reportNoTrunk.xfer = s.xfer ∧ s.reportNoTrunk.stations = s.stations ∧
    s.reportNoTrunk.points = s.points ∧ s.reportNoTrunk.demands = s.demands ∧ s.reportNoTrunk.trunkA = s.trunkA ∧
    s.reportNoTrunk.trunkB = s.trunkB ∧ s.reportNoTrunk.ram = s.ram ∧ s.reportNoTrunk.time = s.time ∧
    s.reportNoTrunk.lastGrant = s.lastGrant ∧ s.reportNoTrunk.traffic = s.traffic := by
  unfold State.reportNoTrunk
  repeat' (first | split | (dsimp only; split))
  all_goals simp

/-- `overrun` changes no field but eng, stations, demands, ring, traffic, port. -/
@[simp] theorem State.overrun_frame (s : State) :
    s.overrun.pending = s.pending ∧ s.overrun.cmd = s.cmd ∧ s.overrun.set = s.set ∧ s.overrun.xfer = s.xfer ∧
    s.overrun.points = s.points ∧ s.overrun.trunkA = s.trunkA ∧ s.overrun.trunkB = s.trunkB ∧
    s.overrun.ram = s.ram ∧ s.overrun.time = s.time ∧ s.overrun.lastGrant = s.lastGrant := by
  unfold State.overrun
  repeat' (first | split | (dsimp only; split))
  all_goals simp

/-- `timerExpired` changes no field but eng, stations, demands, ring, traffic, port. -/
@[simp] theorem State.timerExpired_frame (s : State) :
    s.timerExpired.pending = s.pending ∧ s.timerExpired.cmd = s.cmd ∧ s.timerExpired.set = s.set ∧
    s.timerExpired.xfer = s.xfer ∧ s.timerExpired.points = s.points ∧ s.timerExpired.trunkA = s.trunkA ∧
    s.timerExpired.trunkB = s.trunkB ∧ s.timerExpired.ram = s.ram ∧ s.timerExpired.time = s.time ∧
    s.timerExpired.lastGrant = s.lastGrant := by
  unfold State.timerExpired
  repeat' (first | split | (dsimp only; split))
  all_goals simp

/-! ## Transfers -/

/-- `beginAttempt` changes no field but xfer. -/
@[simp] theorem State.beginAttempt_frame (s : State) (x : Transfer) (t : TrunkId) :
    (s.beginAttempt x t).pending = s.pending ∧ (s.beginAttempt x t).port = s.port ∧
    (s.beginAttempt x t).cmd = s.cmd ∧ (s.beginAttempt x t).set = s.set ∧ (s.beginAttempt x t).eng = s.eng ∧
    (s.beginAttempt x t).stations = s.stations ∧ (s.beginAttempt x t).points = s.points ∧
    (s.beginAttempt x t).demands = s.demands ∧ (s.beginAttempt x t).trunkA = s.trunkA ∧
    (s.beginAttempt x t).trunkB = s.trunkB ∧ (s.beginAttempt x t).ring = s.ring ∧ (s.beginAttempt x t).ram = s.ram ∧
    (s.beginAttempt x t).time = s.time ∧ (s.beginAttempt x t).lastGrant = s.lastGrant ∧
    (s.beginAttempt x t).traffic = s.traffic := by
  unfold State.beginAttempt
  repeat' (first | split | (dsimp only; split))
  all_goals simp

/-- `enterTransfer` changes no field but eng. -/
@[simp] theorem State.enterTransfer_frame (s : State) :
    s.enterTransfer.pending = s.pending ∧ s.enterTransfer.port = s.port ∧ s.enterTransfer.cmd = s.cmd ∧
    s.enterTransfer.set = s.set ∧ s.enterTransfer.xfer = s.xfer ∧ s.enterTransfer.stations = s.stations ∧
    s.enterTransfer.points = s.points ∧ s.enterTransfer.demands = s.demands ∧ s.enterTransfer.trunkA = s.trunkA ∧
    s.enterTransfer.trunkB = s.trunkB ∧ s.enterTransfer.ring = s.ring ∧ s.enterTransfer.ram = s.ram ∧
    s.enterTransfer.time = s.time ∧ s.enterTransfer.lastGrant = s.lastGrant ∧ s.enterTransfer.traffic = s.traffic := by
  unfold State.enterTransfer
  repeat' (first | split | (dsimp only; split))
  all_goals simp

/-- `markInFlight` changes no field but points. -/
@[simp] theorem State.markInFlight_frame (s : State) (p : BitVec 8) :
    (s.markInFlight p).pending = s.pending ∧ (s.markInFlight p).port = s.port ∧ (s.markInFlight p).cmd = s.cmd ∧
    (s.markInFlight p).set = s.set ∧ (s.markInFlight p).eng = s.eng ∧ (s.markInFlight p).xfer = s.xfer ∧
    (s.markInFlight p).stations = s.stations ∧ (s.markInFlight p).demands = s.demands ∧
    (s.markInFlight p).trunkA = s.trunkA ∧ (s.markInFlight p).trunkB = s.trunkB ∧ (s.markInFlight p).ring = s.ring ∧
    (s.markInFlight p).ram = s.ram ∧ (s.markInFlight p).time = s.time ∧ (s.markInFlight p).lastGrant = s.lastGrant ∧
    (s.markInFlight p).traffic = s.traffic := by
  unfold State.markInFlight
  repeat' (first | split | (dsimp only; split))
  all_goals simp

/-- `handOverPoint` changes no field but eng, points, xfer. -/
@[simp] theorem State.handOverPoint_frame (s : State) (d : Option (BitVec 8)) (p : BitVec 8) (r : PointRecord) (n : Nat) (q : RetryPolicy) :
    (s.handOverPoint d p r n q).pending = s.pending ∧ (s.handOverPoint d p r n q).port = s.port ∧
    (s.handOverPoint d p r n q).cmd = s.cmd ∧ (s.handOverPoint d p r n q).set = s.set ∧
    (s.handOverPoint d p r n q).stations = s.stations ∧ (s.handOverPoint d p r n q).demands = s.demands ∧
    (s.handOverPoint d p r n q).trunkA = s.trunkA ∧ (s.handOverPoint d p r n q).trunkB = s.trunkB ∧
    (s.handOverPoint d p r n q).ring = s.ring ∧ (s.handOverPoint d p r n q).ram = s.ram ∧
    (s.handOverPoint d p r n q).time = s.time ∧ (s.handOverPoint d p r n q).lastGrant = s.lastGrant ∧
    (s.handOverPoint d p r n q).traffic = s.traffic := by
  unfold State.handOverPoint
  repeat' (first | split | (dsimp only; split))
  all_goals simp

/-- `handOverProbe` changes no field but eng, stations, xfer. -/
@[simp] theorem State.handOverProbe_frame (s : State) (p : BitVec 8) (r : PointRecord) (n : Nat) (q : RetryPolicy) :
    (s.handOverProbe p r n q).pending = s.pending ∧ (s.handOverProbe p r n q).port = s.port ∧
    (s.handOverProbe p r n q).cmd = s.cmd ∧ (s.handOverProbe p r n q).set = s.set ∧
    (s.handOverProbe p r n q).points = s.points ∧ (s.handOverProbe p r n q).demands = s.demands ∧
    (s.handOverProbe p r n q).trunkA = s.trunkA ∧ (s.handOverProbe p r n q).trunkB = s.trunkB ∧
    (s.handOverProbe p r n q).ring = s.ring ∧ (s.handOverProbe p r n q).ram = s.ram ∧
    (s.handOverProbe p r n q).time = s.time ∧ (s.handOverProbe p r n q).lastGrant = s.lastGrant ∧
    (s.handOverProbe p r n q).traffic = s.traffic := by
  unfold State.handOverProbe
  repeat' (first | split | (dsimp only; split))
  all_goals simp

/-- `handOverBroadcast` changes no field but eng, points, xfer. -/
@[simp] theorem State.handOverBroadcast_frame (s : State) (d : Option (BitVec 8)) (p : BitVec 8) (r : PointRecord) :
    (s.handOverBroadcast d p r).pending = s.pending ∧ (s.handOverBroadcast d p r).port = s.port ∧
    (s.handOverBroadcast d p r).cmd = s.cmd ∧ (s.handOverBroadcast d p r).set = s.set ∧
    (s.handOverBroadcast d p r).stations = s.stations ∧ (s.handOverBroadcast d p r).demands = s.demands ∧
    (s.handOverBroadcast d p r).trunkA = s.trunkA ∧ (s.handOverBroadcast d p r).trunkB = s.trunkB ∧
    (s.handOverBroadcast d p r).ring = s.ring ∧ (s.handOverBroadcast d p r).ram = s.ram ∧
    (s.handOverBroadcast d p r).time = s.time ∧ (s.handOverBroadcast d p r).lastGrant = s.lastGrant ∧
    (s.handOverBroadcast d p r).traffic = s.traffic := by
  unfold State.handOverBroadcast
  repeat' (first | split | (dsimp only; split))
  all_goals simp

/-- `handOverSync` changes no field but eng, xfer. -/
@[simp] theorem State.handOverSync_frame (s : State) :
    s.handOverSync.pending = s.pending ∧ s.handOverSync.port = s.port ∧ s.handOverSync.cmd = s.cmd ∧
    s.handOverSync.set = s.set ∧ s.handOverSync.stations = s.stations ∧ s.handOverSync.points = s.points ∧
    s.handOverSync.demands = s.demands ∧ s.handOverSync.trunkA = s.trunkA ∧ s.handOverSync.trunkB = s.trunkB ∧
    s.handOverSync.ring = s.ring ∧ s.handOverSync.ram = s.ram ∧ s.handOverSync.time = s.time ∧
    s.handOverSync.lastGrant = s.lastGrant ∧ s.handOverSync.traffic = s.traffic := by
  unfold State.handOverSync
  repeat' (first | split | (dsimp only; split))
  all_goals simp

/-- `faultReport` changes no field but ring. -/
@[simp] theorem State.faultReport_frame (s : State) (x : Transfer) (o : OutcomeCode) :
    (s.faultReport x o).pending = s.pending ∧ (s.faultReport x o).port = s.port ∧ (s.faultReport x o).cmd = s.cmd ∧
    (s.faultReport x o).set = s.set ∧ (s.faultReport x o).eng = s.eng ∧ (s.faultReport x o).xfer = s.xfer ∧
    (s.faultReport x o).stations = s.stations ∧ (s.faultReport x o).points = s.points ∧
    (s.faultReport x o).demands = s.demands ∧ (s.faultReport x o).trunkA = s.trunkA ∧
    (s.faultReport x o).trunkB = s.trunkB ∧ (s.faultReport x o).ram = s.ram ∧ (s.faultReport x o).time = s.time ∧
    (s.faultReport x o).lastGrant = s.lastGrant ∧ (s.faultReport x o).traffic = s.traffic := by
  unfold State.faultReport
  repeat' (first | split | (dsimp only; split))
  all_goals simp

/-- `transferReports` changes no field but points, ring, stations, demands, xfer. -/
@[simp] theorem State.transferReports_frame (s : State) (x : Transfer) (o : OutcomeCode) :
    (s.transferReports x o).pending = s.pending ∧ (s.transferReports x o).port = s.port ∧
    (s.transferReports x o).cmd = s.cmd ∧ (s.transferReports x o).set = s.set ∧
    (s.transferReports x o).eng = s.eng ∧ (s.transferReports x o).trunkA = s.trunkA ∧
    (s.transferReports x o).trunkB = s.trunkB ∧ (s.transferReports x o).ram = s.ram ∧
    (s.transferReports x o).time = s.time ∧ (s.transferReports x o).lastGrant = s.lastGrant ∧
    (s.transferReports x o).traffic = s.traffic := by
  unfold State.transferReports
  repeat' (first | split | (dsimp only; split))
  all_goals simp

/-- `endTransfer` changes no field but eng, stations, demands, ring, traffic, port, points, xfer. -/
@[simp] theorem State.endTransfer_frame (s : State) (x : Transfer) (o : OutcomeCode) :
    (s.endTransfer x o).pending = s.pending ∧ (s.endTransfer x o).cmd = s.cmd ∧ (s.endTransfer x o).set = s.set ∧
    (s.endTransfer x o).trunkA = s.trunkA ∧ (s.endTransfer x o).trunkB = s.trunkB ∧
    (s.endTransfer x o).ram = s.ram ∧ (s.endTransfer x o).time = s.time ∧
    (s.endTransfer x o).lastGrant = s.lastGrant := by
  unfold State.endTransfer
  repeat' (first | split | (dsimp only; split))
  all_goals simp

/-- `retryOrEnd` changes no field but eng, stations, demands, ring, traffic, port, points, xfer. -/
@[simp] theorem State.retryOrEnd_frame (s : State) (x : Transfer) (o : OutcomeCode) :
    (s.retryOrEnd x o).pending = s.pending ∧ (s.retryOrEnd x o).cmd = s.cmd ∧ (s.retryOrEnd x o).set = s.set ∧
    (s.retryOrEnd x o).trunkA = s.trunkA ∧ (s.retryOrEnd x o).trunkB = s.trunkB ∧ (s.retryOrEnd x o).ram = s.ram ∧
    (s.retryOrEnd x o).time = s.time ∧ (s.retryOrEnd x o).lastGrant = s.lastGrant := by
  unfold State.retryOrEnd
  repeat' (first | split | (dsimp only; split))
  all_goals simp

/-- `turnOrEnd` changes no field but eng, stations, demands, ring, traffic, port, points, xfer. -/
@[simp] theorem State.turnOrEnd_frame (s : State) (x : Transfer) (o : OutcomeCode) :
    (s.turnOrEnd x o).pending = s.pending ∧ (s.turnOrEnd x o).cmd = s.cmd ∧ (s.turnOrEnd x o).set = s.set ∧
    (s.turnOrEnd x o).trunkA = s.trunkA ∧ (s.turnOrEnd x o).trunkB = s.trunkB ∧ (s.turnOrEnd x o).ram = s.ram ∧
    (s.turnOrEnd x o).time = s.time ∧ (s.turnOrEnd x o).lastGrant = s.lastGrant := by
  unfold State.turnOrEnd
  repeat' (first | split | (dsimp only; split))
  all_goals simp

/-- `afterAttempt` changes no field but eng, stations, demands, ring, traffic, port, points, xfer. -/
@[simp] theorem State.afterAttempt_frame (s : State) (x : Transfer) (o : OutcomeCode) :
    (s.afterAttempt x o).pending = s.pending ∧ (s.afterAttempt x o).cmd = s.cmd ∧ (s.afterAttempt x o).set = s.set ∧
    (s.afterAttempt x o).trunkA = s.trunkA ∧ (s.afterAttempt x o).trunkB = s.trunkB ∧
    (s.afterAttempt x o).ram = s.ram ∧ (s.afterAttempt x o).time = s.time ∧
    (s.afterAttempt x o).lastGrant = s.lastGrant := by
  unfold State.afterAttempt
  repeat' (first | split | (dsimp only; split))
  all_goals simp

/-- `attemptReports` changes no field but trunkA, trunkB, stations, ring. -/
@[simp] theorem State.attemptReports_frame (s : State) (x : Transfer) (o : OutcomeCode) (c : Option (BitVec 8)) :
    (s.attemptReports x o c).pending = s.pending ∧ (s.attemptReports x o c).port = s.port ∧
    (s.attemptReports x o c).cmd = s.cmd ∧ (s.attemptReports x o c).set = s.set ∧
    (s.attemptReports x o c).eng = s.eng ∧ (s.attemptReports x o c).xfer = s.xfer ∧
    (s.attemptReports x o c).points = s.points ∧ (s.attemptReports x o c).demands = s.demands ∧
    (s.attemptReports x o c).ram = s.ram ∧ (s.attemptReports x o c).time = s.time ∧
    (s.attemptReports x o c).lastGrant = s.lastGrant ∧ (s.attemptReports x o c).traffic = s.traffic := by
  unfold State.attemptReports
  repeat' (first | split | (dsimp only; split))
  all_goals simp

/-- `endAttempt` changes no field but eng, stations, demands, ring, traffic, port, points, xfer, trunkA, trunkB, cmd. -/
@[simp] theorem State.endAttempt_frame (s : State) (x : Transfer) (o : OutcomeCode) (c : Option (BitVec 8)) :
    (s.endAttempt x o c).pending = s.pending ∧ (s.endAttempt x o c).set = s.set ∧ (s.endAttempt x o c).ram = s.ram ∧
    (s.endAttempt x o c).time = s.time ∧ (s.endAttempt x o c).lastGrant = s.lastGrant := by
  unfold State.endAttempt
  repeat' (first | split | (dsimp only; split))
  all_goals simp

/-- `sendCall` changes no field but trunkA, trunkB, xfer. -/
@[simp] theorem State.sendCall_frame (s : State) (x : Transfer) :
    (s.sendCall x).pending = s.pending ∧ (s.sendCall x).port = s.port ∧ (s.sendCall x).cmd = s.cmd ∧
    (s.sendCall x).set = s.set ∧ (s.sendCall x).eng = s.eng ∧ (s.sendCall x).stations = s.stations ∧
    (s.sendCall x).points = s.points ∧ (s.sendCall x).demands = s.demands ∧ (s.sendCall x).ring = s.ring ∧
    (s.sendCall x).ram = s.ram ∧ (s.sendCall x).time = s.time ∧ (s.sendCall x).lastGrant = s.lastGrant ∧
    (s.sendCall x).traffic = s.traffic := by
  unfold State.sendCall
  repeat' (first | split | (dsimp only; split))
  all_goals simp

/-- `echoEnd` changes no field but eng, stations, demands, ring, traffic, port, points, xfer, trunkA, trunkB, cmd. -/
@[simp] theorem State.echoEnd_frame (s : State) (x : Transfer) (u v : Word) (l : List Word) (e : Echo) :
    (s.echoEnd x u v l e).pending = s.pending ∧ (s.echoEnd x u v l e).set = s.set ∧
    (s.echoEnd x u v l e).ram = s.ram ∧ (s.echoEnd x u v l e).time = s.time ∧
    (s.echoEnd x u v l e).lastGrant = s.lastGrant := by
  unfold State.echoEnd
  repeat' (first | split | (dsimp only; split))
  all_goals simp

/-- `answerSync` changes no field but trunkA, trunkB, points, xfer. -/
@[simp] theorem State.answerSync_frame (s : State) (x : Transfer) (f : AnswerFrame) :
    (s.answerSync x f).pending = s.pending ∧ (s.answerSync x f).port = s.port ∧ (s.answerSync x f).cmd = s.cmd ∧
    (s.answerSync x f).set = s.set ∧ (s.answerSync x f).eng = s.eng ∧ (s.answerSync x f).stations = s.stations ∧
    (s.answerSync x f).demands = s.demands ∧ (s.answerSync x f).ring = s.ring ∧ (s.answerSync x f).ram = s.ram ∧
    (s.answerSync x f).time = s.time ∧ (s.answerSync x f).lastGrant = s.lastGrant ∧
    (s.answerSync x f).traffic = s.traffic := by
  unfold State.answerSync
  repeat' (first | split | (dsimp only; split))
  all_goals simp

/-- `answerEnd` changes no field but eng, stations, demands, ring, traffic, port, points, xfer, trunkA, trunkB, cmd. -/
@[simp] theorem State.answerEnd_frame (s : State) (x : Transfer) (f : AnswerFrame) :
    (s.answerEnd x f).pending = s.pending ∧ (s.answerEnd x f).set = s.set ∧ (s.answerEnd x f).ram = s.ram ∧
    (s.answerEnd x f).time = s.time ∧ (s.answerEnd x f).lastGrant = s.lastGrant := by
  unfold State.answerEnd
  repeat' (first | split | (dsimp only; split))
  all_goals simp

/-- `cutAttempt` changes no field but trunkA, trunkB. -/
@[simp] theorem State.cutAttempt_frame (s : State) (x : Transfer) :
    (s.cutAttempt x).pending = s.pending ∧ (s.cutAttempt x).port = s.port ∧ (s.cutAttempt x).cmd = s.cmd ∧
    (s.cutAttempt x).set = s.set ∧ (s.cutAttempt x).eng = s.eng ∧ (s.cutAttempt x).xfer = s.xfer ∧
    (s.cutAttempt x).stations = s.stations ∧ (s.cutAttempt x).points = s.points ∧
    (s.cutAttempt x).demands = s.demands ∧ (s.cutAttempt x).ring = s.ring ∧ (s.cutAttempt x).ram = s.ram ∧
    (s.cutAttempt x).time = s.time ∧ (s.cutAttempt x).lastGrant = s.lastGrant ∧ (s.cutAttempt x).traffic = s.traffic := by
  unfold State.cutAttempt
  repeat' (first | split | (dsimp only; split))
  all_goals simp

/-! ## Slots -/

/-- `planFault` changes no field but eng, stations, demands, ring, traffic, port. -/
@[simp] theorem State.planFault_frame (s : State) (e : CheckFailure) :
    (s.planFault e).pending = s.pending ∧ (s.planFault e).cmd = s.cmd ∧ (s.planFault e).set = s.set ∧
    (s.planFault e).xfer = s.xfer ∧ (s.planFault e).points = s.points ∧ (s.planFault e).trunkA = s.trunkA ∧
    (s.planFault e).trunkB = s.trunkB ∧ (s.planFault e).ram = s.ram ∧ (s.planFault e).time = s.time ∧
    (s.planFault e).lastGrant = s.lastGrant := by
  unfold State.planFault
  repeat' (first | split | (dsimp only; split))
  all_goals simp

/-- `transferSlot` changes no field but eng, stations, demands, ring, traffic, port, points, xfer. -/
@[simp] theorem State.transferSlot_frame (s : State) (p : BitVec 8) (r : PointRecord) (n : Nat) (q : RetryPolicy) :
    (s.transferSlot p r n q).pending = s.pending ∧ (s.transferSlot p r n q).cmd = s.cmd ∧
    (s.transferSlot p r n q).set = s.set ∧ (s.transferSlot p r n q).trunkA = s.trunkA ∧
    (s.transferSlot p r n q).trunkB = s.trunkB ∧ (s.transferSlot p r n q).ram = s.ram ∧
    (s.transferSlot p r n q).time = s.time ∧ (s.transferSlot p r n q).lastGrant = s.lastGrant := by
  unfold State.transferSlot State.needTrunk
  repeat' (first | split | (dsimp only; split))
  all_goals simp

/-- `takeDemand` changes no field but eng, stations, demands, ring, traffic, port. -/
@[simp] theorem State.takeDemand_frame (s : State) :
    s.takeDemand.pending = s.pending ∧ s.takeDemand.cmd = s.cmd ∧ s.takeDemand.set = s.set ∧
    s.takeDemand.xfer = s.xfer ∧ s.takeDemand.points = s.points ∧ s.takeDemand.trunkA = s.trunkA ∧
    s.takeDemand.trunkB = s.trunkB ∧ s.takeDemand.ram = s.ram ∧ s.takeDemand.time = s.time ∧
    s.takeDemand.lastGrant = s.lastGrant := by
  unfold State.takeDemand
  repeat' (first | split | (dsimp only; split))
  all_goals simp

/-- `openSlot` changes no field but eng, stations, demands, ring, traffic, port. -/
@[simp] theorem State.openSlot_frame (s : State) :
    s.openSlot.pending = s.pending ∧ s.openSlot.cmd = s.cmd ∧ s.openSlot.set = s.set ∧ s.openSlot.xfer = s.xfer ∧
    s.openSlot.points = s.points ∧ s.openSlot.trunkA = s.trunkA ∧ s.openSlot.trunkB = s.trunkB ∧
    s.openSlot.ram = s.ram ∧ s.openSlot.time = s.time ∧ s.openSlot.lastGrant = s.lastGrant := by
  unfold State.openSlot State.needTrunk
  repeat' (first | split | (dsimp only; split))
  all_goals simp

/-- `beginPause` changes no field but eng. -/
@[simp] theorem State.beginPause_frame (s : State) (n m : Nat) :
    (s.beginPause n m).pending = s.pending ∧ (s.beginPause n m).port = s.port ∧ (s.beginPause n m).cmd = s.cmd ∧
    (s.beginPause n m).set = s.set ∧ (s.beginPause n m).xfer = s.xfer ∧ (s.beginPause n m).stations = s.stations ∧
    (s.beginPause n m).points = s.points ∧ (s.beginPause n m).demands = s.demands ∧ (s.beginPause n m).trunkA = s.trunkA ∧
    (s.beginPause n m).trunkB = s.trunkB ∧ (s.beginPause n m).ring = s.ring ∧ (s.beginPause n m).ram = s.ram ∧
    (s.beginPause n m).time = s.time ∧ (s.beginPause n m).lastGrant = s.lastGrant ∧ (s.beginPause n m).traffic = s.traffic := by
  unfold State.beginPause
  repeat' (first | split | (dsimp only; split))
  all_goals simp

/-- `slotWork` changes no field but eng, stations, demands, ring, traffic, port, points, xfer. -/
@[simp] theorem State.slotWork_frame (s : State) (b : SlotStart) (n : Nat) :
    (s.slotWork b n).pending = s.pending ∧ (s.slotWork b n).cmd = s.cmd ∧ (s.slotWork b n).set = s.set ∧
    (s.slotWork b n).trunkA = s.trunkA ∧ (s.slotWork b n).trunkB = s.trunkB ∧ (s.slotWork b n).ram = s.ram ∧
    (s.slotWork b n).time = s.time ∧ (s.slotWork b n).lastGrant = s.lastGrant := by
  unfold State.slotWork State.needTrunk
  repeat' (first | split | (dsimp only; split))
  all_goals simp

/-- `slotChecked` changes no field but eng, stations, demands, ring, traffic, port, points, xfer. -/
@[simp] theorem State.slotChecked_frame (s : State) (n : Nat) :
    (s.slotChecked n).pending = s.pending ∧ (s.slotChecked n).cmd = s.cmd ∧ (s.slotChecked n).set = s.set ∧
    (s.slotChecked n).trunkA = s.trunkA ∧ (s.slotChecked n).trunkB = s.trunkB ∧ (s.slotChecked n).ram = s.ram ∧
    (s.slotChecked n).time = s.time ∧ (s.slotChecked n).lastGrant = s.lastGrant := by
  unfold State.slotChecked
  repeat' (first | split | (dsimp only; split))
  all_goals simp

/-- `slotReadDone` changes no field but eng, stations, demands, ring, traffic, port, points, xfer, lastGrant, ram. -/
@[simp] theorem State.slotReadDone_frame (s : State) (n : Nat) :
    (s.slotReadDone n).pending = s.pending ∧ (s.slotReadDone n).cmd = s.cmd ∧ (s.slotReadDone n).set = s.set ∧
    (s.slotReadDone n).trunkA = s.trunkA ∧ (s.slotReadDone n).trunkB = s.trunkB ∧ (s.slotReadDone n).time = s.time := by
  unfold State.slotReadDone
  repeat' (first | split | (dsimp only; split))
  all_goals simp

/-- `failDemand` changes no field but eng, stations, demands, ring, traffic, port. -/
@[simp] theorem State.failDemand_frame (s : State) (d : Demand) (c : Nat) :
    (s.failDemand d c).pending = s.pending ∧ (s.failDemand d c).cmd = s.cmd ∧ (s.failDemand d c).set = s.set ∧
    (s.failDemand d c).xfer = s.xfer ∧ (s.failDemand d c).points = s.points ∧ (s.failDemand d c).trunkA = s.trunkA ∧
    (s.failDemand d c).trunkB = s.trunkB ∧ (s.failDemand d c).ram = s.ram ∧ (s.failDemand d c).time = s.time ∧
    (s.failDemand d c).lastGrant = s.lastGrant := by
  unfold State.failDemand
  repeat' (first | split | (dsimp only; split))
  all_goals simp

/-- `handOverDemand` changes no field but eng, points, xfer. -/
@[simp] theorem State.handOverDemand_frame (s : State) (d : Demand) (r : PointRecord) (n : Nat) :
    (s.handOverDemand d r n).pending = s.pending ∧ (s.handOverDemand d r n).port = s.port ∧
    (s.handOverDemand d r n).cmd = s.cmd ∧ (s.handOverDemand d r n).set = s.set ∧
    (s.handOverDemand d r n).stations = s.stations ∧ (s.handOverDemand d r n).demands = s.demands ∧
    (s.handOverDemand d r n).trunkA = s.trunkA ∧ (s.handOverDemand d r n).trunkB = s.trunkB ∧
    (s.handOverDemand d r n).ring = s.ring ∧ (s.handOverDemand d r n).ram = s.ram ∧
    (s.handOverDemand d r n).time = s.time ∧ (s.handOverDemand d r n).lastGrant = s.lastGrant ∧
    (s.handOverDemand d r n).traffic = s.traffic := by
  unfold State.handOverDemand
  repeat' (first | split | (dsimp only; split))
  all_goals simp

/-- `needTrunkForDemand` changes no field but eng, stations, demands, ring, traffic, port, points, xfer. -/
@[simp] theorem State.needTrunkForDemand_frame (s : State) (d : Demand) (r : PointRecord) (n : Nat) :
    (s.needTrunkForDemand d r n).pending = s.pending ∧ (s.needTrunkForDemand d r n).cmd = s.cmd ∧
    (s.needTrunkForDemand d r n).set = s.set ∧ (s.needTrunkForDemand d r n).trunkA = s.trunkA ∧
    (s.needTrunkForDemand d r n).trunkB = s.trunkB ∧ (s.needTrunkForDemand d r n).ram = s.ram ∧
    (s.needTrunkForDemand d r n).time = s.time ∧ (s.needTrunkForDemand d r n).lastGrant = s.lastGrant := by
  unfold State.needTrunkForDemand State.needTrunk
  repeat' (first | split | (dsimp only; split))
  all_goals simp

/-- `demandChecked` changes no field but eng, stations, demands, ring, traffic, port, points, xfer. -/
@[simp] theorem State.demandChecked_frame (s : State) (n : Nat) :
    (s.demandChecked n).pending = s.pending ∧ (s.demandChecked n).cmd = s.cmd ∧ (s.demandChecked n).set = s.set ∧
    (s.demandChecked n).trunkA = s.trunkA ∧ (s.demandChecked n).trunkB = s.trunkB ∧
    (s.demandChecked n).ram = s.ram ∧ (s.demandChecked n).time = s.time ∧ (s.demandChecked n).lastGrant = s.lastGrant := by
  unfold State.demandChecked
  repeat' (first | split | (dsimp only; split))
  all_goals simp

/-- `demandReadDone` changes no field but eng, stations, demands, ring, traffic, port, points, xfer, lastGrant, ram. -/
@[simp] theorem State.demandReadDone_frame (s : State) (n : Nat) :
    (s.demandReadDone n).pending = s.pending ∧ (s.demandReadDone n).cmd = s.cmd ∧ (s.demandReadDone n).set = s.set ∧
    (s.demandReadDone n).trunkA = s.trunkA ∧ (s.demandReadDone n).trunkB = s.trunkB ∧
    (s.demandReadDone n).time = s.time := by
  unfold State.demandReadDone
  repeat' (first | split | (dsimp only; split))
  all_goals simp

/-! ## The ring towards the host -/

/-- `advanceRing` changes no field but ring, port, traffic. -/
@[simp] theorem State.advanceRing_frame (s : State) (l : List EventRecord) :
    (s.advanceRing l).pending = s.pending ∧ (s.advanceRing l).cmd = s.cmd ∧ (s.advanceRing l).set = s.set ∧
    (s.advanceRing l).eng = s.eng ∧ (s.advanceRing l).xfer = s.xfer ∧ (s.advanceRing l).stations = s.stations ∧
    (s.advanceRing l).points = s.points ∧ (s.advanceRing l).demands = s.demands ∧
    (s.advanceRing l).trunkA = s.trunkA ∧ (s.advanceRing l).trunkB = s.trunkB ∧ (s.advanceRing l).time = s.time ∧
    (s.advanceRing l).ram = s.ram ∧ (s.advanceRing l).lastGrant = s.lastGrant := by
  and_intros <;> rfl

/-- `publish` changes no field but ram, traffic, ring, port, lastGrant. -/
@[simp] theorem State.publish_frame (s : State) :
    s.publish.pending = s.pending ∧ s.publish.cmd = s.cmd ∧ s.publish.set = s.set ∧ s.publish.eng = s.eng ∧
    s.publish.xfer = s.xfer ∧ s.publish.stations = s.stations ∧ s.publish.points = s.points ∧
    s.publish.demands = s.demands ∧ s.publish.trunkA = s.trunkA ∧ s.publish.trunkB = s.trunkB ∧
    s.publish.time = s.time := by
  unfold State.publish
  repeat' (first | split | (dsimp only; split))
  all_goals simp

/-- `resume` changes no field but ring. -/
@[simp] theorem State.resume_frame (s : State) :
    s.resume.pending = s.pending ∧ s.resume.port = s.port ∧ s.resume.cmd = s.cmd ∧ s.resume.set = s.set ∧
    s.resume.eng = s.eng ∧ s.resume.xfer = s.xfer ∧ s.resume.stations = s.stations ∧ s.resume.points = s.points ∧
    s.resume.demands = s.demands ∧ s.resume.trunkA = s.trunkA ∧ s.resume.trunkB = s.trunkB ∧ s.resume.ram = s.ram ∧
    s.resume.time = s.time ∧ s.resume.lastGrant = s.lastGrant ∧ s.resume.traffic = s.traffic := by
  unfold State.resume
  repeat' (first | split | (dsimp only; split))
  all_goals simp

/-- `writeReadIndex` changes no field but ring, port. -/
@[simp] theorem State.writeReadIndex_frame (s : State) (v : Word) :
    (s.writeReadIndex v).pending = s.pending ∧ (s.writeReadIndex v).cmd = s.cmd ∧ (s.writeReadIndex v).set = s.set ∧
    (s.writeReadIndex v).eng = s.eng ∧ (s.writeReadIndex v).xfer = s.xfer ∧
    (s.writeReadIndex v).stations = s.stations ∧ (s.writeReadIndex v).points = s.points ∧
    (s.writeReadIndex v).demands = s.demands ∧ (s.writeReadIndex v).trunkA = s.trunkA ∧
    (s.writeReadIndex v).trunkB = s.trunkB ∧ (s.writeReadIndex v).ram = s.ram ∧ (s.writeReadIndex v).time = s.time ∧
    (s.writeReadIndex v).lastGrant = s.lastGrant ∧ (s.writeReadIndex v).traffic = s.traffic := by
  unfold State.writeReadIndex
  repeat' (first | split | (dsimp only; split))
  all_goals simp

/-- `placeRing` changes no field but ring, traffic. -/
@[simp] theorem State.placeRing_frame (s : State) (r : Ring) :
    (s.placeRing r).pending = s.pending ∧ (s.placeRing r).port = s.port ∧ (s.placeRing r).cmd = s.cmd ∧
    (s.placeRing r).set = s.set ∧ (s.placeRing r).eng = s.eng ∧ (s.placeRing r).xfer = s.xfer ∧
    (s.placeRing r).stations = s.stations ∧ (s.placeRing r).points = s.points ∧
    (s.placeRing r).demands = s.demands ∧ (s.placeRing r).trunkA = s.trunkA ∧ (s.placeRing r).trunkB = s.trunkB ∧
    (s.placeRing r).time = s.time ∧ (s.placeRing r).ram = s.ram ∧ (s.placeRing r).lastGrant = s.lastGrant := by
  and_intros <;> rfl

/-- `writeRingBase` changes no field but ring, port, traffic. -/
@[simp] theorem State.writeRingBase_frame (s : State) (v : Word) :
    (s.writeRingBase v).pending = s.pending ∧ (s.writeRingBase v).cmd = s.cmd ∧ (s.writeRingBase v).set = s.set ∧
    (s.writeRingBase v).eng = s.eng ∧ (s.writeRingBase v).xfer = s.xfer ∧
    (s.writeRingBase v).stations = s.stations ∧ (s.writeRingBase v).points = s.points ∧
    (s.writeRingBase v).demands = s.demands ∧ (s.writeRingBase v).trunkA = s.trunkA ∧
    (s.writeRingBase v).trunkB = s.trunkB ∧ (s.writeRingBase v).time = s.time ∧ (s.writeRingBase v).ram = s.ram ∧
    (s.writeRingBase v).lastGrant = s.lastGrant := by
  unfold State.writeRingBase
  repeat' (first | split | (dsimp only; split))
  all_goals simp

/-- `writeRingSize` changes no field but ring, port, traffic. -/
@[simp] theorem State.writeRingSize_frame (s : State) (v : Word) :
    (s.writeRingSize v).pending = s.pending ∧ (s.writeRingSize v).cmd = s.cmd ∧ (s.writeRingSize v).set = s.set ∧
    (s.writeRingSize v).eng = s.eng ∧ (s.writeRingSize v).xfer = s.xfer ∧
    (s.writeRingSize v).stations = s.stations ∧ (s.writeRingSize v).points = s.points ∧
    (s.writeRingSize v).demands = s.demands ∧ (s.writeRingSize v).trunkA = s.trunkA ∧
    (s.writeRingSize v).trunkB = s.trunkB ∧ (s.writeRingSize v).time = s.time ∧ (s.writeRingSize v).ram = s.ram ∧
    (s.writeRingSize v).lastGrant = s.lastGrant := by
  unfold State.writeRingSize
  repeat' (first | split | (dsimp only; split))
  all_goals simp

/-- `writeRingGeometry` changes no field but ring, port, traffic. -/
@[simp] theorem State.writeRingGeometry_frame (s : State) (r : RingRegister) (v : Word) :
    (s.writeRingGeometry r v).pending = s.pending ∧ (s.writeRingGeometry r v).cmd = s.cmd ∧
    (s.writeRingGeometry r v).set = s.set ∧ (s.writeRingGeometry r v).eng = s.eng ∧
    (s.writeRingGeometry r v).xfer = s.xfer ∧ (s.writeRingGeometry r v).stations = s.stations ∧
    (s.writeRingGeometry r v).points = s.points ∧ (s.writeRingGeometry r v).demands = s.demands ∧
    (s.writeRingGeometry r v).trunkA = s.trunkA ∧ (s.writeRingGeometry r v).trunkB = s.trunkB ∧
    (s.writeRingGeometry r v).time = s.time ∧ (s.writeRingGeometry r v).ram = s.ram ∧
    (s.writeRingGeometry r v).lastGrant = s.lastGrant := by
  unfold State.writeRingGeometry
  repeat' (first | split | (dsimp only; split))
  all_goals simp

/-! ## Engine commands -/

/-- `refuseEngine` changes no field but cmd, port. -/
@[simp] theorem State.refuseEngine_frame (s : State) :
    s.refuseEngine.pending = s.pending ∧ s.refuseEngine.set = s.set ∧ s.refuseEngine.eng = s.eng ∧
    s.refuseEngine.xfer = s.xfer ∧ s.refuseEngine.stations = s.stations ∧ s.refuseEngine.points = s.points ∧
    s.refuseEngine.demands = s.demands ∧ s.refuseEngine.trunkA = s.trunkA ∧ s.refuseEngine.trunkB = s.trunkB ∧
    s.refuseEngine.ring = s.ring ∧ s.refuseEngine.ram = s.ram ∧ s.refuseEngine.time = s.time ∧
    s.refuseEngine.lastGrant = s.lastGrant ∧ s.refuseEngine.traffic = s.traffic := by
  unfold State.refuseEngine
  repeat' (first | split | (dsimp only; split))
  all_goals simp

/-- `refuseNoPlan` changes no field but cmd, port. -/
@[simp] theorem State.refuseNoPlan_frame (s : State) :
    s.refuseNoPlan.pending = s.pending ∧ s.refuseNoPlan.set = s.set ∧ s.refuseNoPlan.eng = s.eng ∧
    s.refuseNoPlan.xfer = s.xfer ∧ s.refuseNoPlan.stations = s.stations ∧ s.refuseNoPlan.points = s.points ∧
    s.refuseNoPlan.demands = s.demands ∧ s.refuseNoPlan.trunkA = s.trunkA ∧ s.refuseNoPlan.trunkB = s.trunkB ∧
    s.refuseNoPlan.ring = s.ring ∧ s.refuseNoPlan.ram = s.ram ∧ s.refuseNoPlan.time = s.time ∧
    s.refuseNoPlan.lastGrant = s.lastGrant ∧ s.refuseNoPlan.traffic = s.traffic := by
  unfold State.refuseNoPlan
  repeat' (first | split | (dsimp only; split))
  all_goals simp

/-- `start` changes no field but eng, stations, demands, ring, traffic, cmd, port. -/
@[simp] theorem State.start_frame (s : State) :
    s.start.pending = s.pending ∧ s.start.set = s.set ∧ s.start.xfer = s.xfer ∧ s.start.points = s.points ∧
    s.start.trunkA = s.trunkA ∧ s.start.trunkB = s.trunkB ∧ s.start.ram = s.ram ∧ s.start.time = s.time ∧
    s.start.lastGrant = s.lastGrant := by
  unfold State.start
  repeat' (first | split | (dsimp only; split))
  all_goals simp

/-- `stepRound` changes no field but eng, stations, demands, ring, traffic, cmd, port. -/
@[simp] theorem State.stepRound_frame (s : State) :
    s.stepRound.pending = s.pending ∧ s.stepRound.set = s.set ∧ s.stepRound.xfer = s.xfer ∧
    s.stepRound.points = s.points ∧ s.stepRound.trunkA = s.trunkA ∧ s.stepRound.trunkB = s.trunkB ∧
    s.stepRound.ram = s.ram ∧ s.stepRound.time = s.time ∧ s.stepRound.lastGrant = s.lastGrant := by
  unfold State.stepRound
  repeat' (first | split | (dsimp only; split))
  all_goals simp

/-- `stopRound` changes no field but eng, ring, cmd, port. -/
@[simp] theorem State.stopRound_frame (s : State) :
    s.stopRound.pending = s.pending ∧ s.stopRound.set = s.set ∧ s.stopRound.xfer = s.xfer ∧
    s.stopRound.stations = s.stations ∧ s.stopRound.points = s.points ∧ s.stopRound.demands = s.demands ∧
    s.stopRound.trunkA = s.trunkA ∧ s.stopRound.trunkB = s.trunkB ∧ s.stopRound.ram = s.ram ∧
    s.stopRound.time = s.time ∧ s.stopRound.lastGrant = s.lastGrant ∧ s.stopRound.traffic = s.traffic := by
  unfold State.stopRound
  repeat' (first | split | (dsimp only; split))
  all_goals simp

/-- `stopSweep` changes no field but eng, ring, cmd, port. -/
@[simp] theorem State.stopSweep_frame (s : State) :
    s.stopSweep.pending = s.pending ∧ s.stopSweep.set = s.set ∧ s.stopSweep.xfer = s.xfer ∧
    s.stopSweep.stations = s.stations ∧ s.stopSweep.points = s.points ∧ s.stopSweep.demands = s.demands ∧
    s.stopSweep.trunkA = s.trunkA ∧ s.stopSweep.trunkB = s.trunkB ∧ s.stopSweep.ram = s.ram ∧
    s.stopSweep.time = s.time ∧ s.stopSweep.lastGrant = s.lastGrant ∧ s.stopSweep.traffic = s.traffic := by
  unfold State.stopSweep
  repeat' (first | split | (dsimp only; split))
  all_goals simp

/-- `clearHalt` changes no field but eng, ring, cmd, port. -/
@[simp] theorem State.clearHalt_frame (s : State) :
    s.clearHalt.pending = s.pending ∧ s.clearHalt.set = s.set ∧ s.clearHalt.xfer = s.xfer ∧
    s.clearHalt.stations = s.stations ∧ s.clearHalt.points = s.points ∧ s.clearHalt.demands = s.demands ∧
    s.clearHalt.trunkA = s.trunkA ∧ s.clearHalt.trunkB = s.trunkB ∧ s.clearHalt.ram = s.ram ∧
    s.clearHalt.time = s.time ∧ s.clearHalt.lastGrant = s.lastGrant ∧ s.clearHalt.traffic = s.traffic := by
  unfold State.clearHalt
  repeat' (first | split | (dsimp only; split))
  all_goals simp

/-- `abortSlot` changes no field but points, ring, stations, demands, xfer, trunkA, trunkB. -/
@[simp] theorem State.abortSlot_frame (s : State) :
    s.abortSlot.pending = s.pending ∧ s.abortSlot.port = s.port ∧ s.abortSlot.cmd = s.cmd ∧
    s.abortSlot.set = s.set ∧ s.abortSlot.eng = s.eng ∧ s.abortSlot.ram = s.ram ∧ s.abortSlot.time = s.time ∧
    s.abortSlot.lastGrant = s.lastGrant ∧ s.abortSlot.traffic = s.traffic := by
  unfold State.abortSlot
  repeat' (first | split | (dsimp only; split))
  all_goals simp

/-- `abort` changes no field but points, ring, stations, demands, xfer, trunkA, trunkB, eng, port, traffic, cmd. -/
@[simp] theorem State.abort_frame (s : State) :
    s.abort.pending = s.pending ∧ s.abort.set = s.set ∧ s.abort.ram = s.ram ∧ s.abort.time = s.time ∧
    s.abort.lastGrant = s.lastGrant := by
  unfold State.abort
  repeat' (first | split | (dsimp only; split))
  all_goals simp

/-- `abortComplete` changes no field but time, eng, cmd, trunkA, trunkB, xfer, ram, traffic, port, lastGrant. -/
@[simp] theorem State.abortComplete_frame (s : State) :
    s.abortComplete.pending = s.pending ∧ s.abortComplete.set = s.set ∧ s.abortComplete.stations = s.stations ∧
    s.abortComplete.points = s.points ∧ s.abortComplete.demands = s.demands ∧ s.abortComplete.ring = s.ring := by
  unfold State.abortComplete
  repeat' (first | split | (dsimp only; split))
  all_goals simp

/-- `resetRunTime` changes no field but eng, xfer, stations, points, demands, ring, port, traffic, trunkA, trunkB. -/
@[simp] theorem State.resetRunTime_frame (s : State) :
    s.resetRunTime.pending = s.pending ∧ s.resetRunTime.cmd = s.cmd ∧ s.resetRunTime.set = s.set ∧
    s.resetRunTime.ram = s.ram ∧ s.resetRunTime.time = s.time ∧ s.resetRunTime.lastGrant = s.lastGrant := by
  unfold State.resetRunTime
  repeat' (first | split | (dsimp only; split))
  all_goals simp

/-- `engineReset` changes no field but eng, xfer, stations, points, demands, ring, port, traffic, trunkA, trunkB, cmd. -/
@[simp] theorem State.engineReset_frame (s : State) :
    s.engineReset.pending = s.pending ∧ s.engineReset.set = s.set ∧ s.engineReset.ram = s.ram ∧
    s.engineReset.time = s.time ∧ s.engineReset.lastGrant = s.lastGrant := by
  unfold State.engineReset
  repeat' (first | split | (dsimp only; split))
  all_goals simp

/-- `engineResetComplete` changes no field but time, eng, cmd, trunkA, trunkB, xfer, ram, traffic, port, lastGrant. -/
@[simp] theorem State.engineResetComplete_frame (s : State) :
    s.engineResetComplete.pending = s.pending ∧ s.engineResetComplete.set = s.set ∧
    s.engineResetComplete.stations = s.stations ∧ s.engineResetComplete.points = s.points ∧
    s.engineResetComplete.demands = s.demands ∧ s.engineResetComplete.ring = s.ring := by
  unfold State.engineResetComplete
  repeat' (first | split | (dsimp only; split))
  all_goals simp

/-- `act` changes no field but points, ring, stations, demands, xfer, trunkA, trunkB, eng, port, traffic, cmd. -/
@[simp] theorem State.act_frame (s : State) (c : Word) :
    (s.act c).pending = s.pending ∧ (s.act c).set = s.set ∧ (s.act c).ram = s.ram ∧ (s.act c).time = s.time ∧
    (s.act c).lastGrant = s.lastGrant := by
  unfold State.act
  repeat' (first | split | (dsimp only; split))
  all_goals simp

/-- A write to COMMAND changes no field that its command leaves alone. -/
theorem State.takeCommand_field {α : Type} (f : State → α) (s : State) (c : Word) (act : State → State)
    (hport : ∀ (u : State) (p : HostPort), f { u with port := p } = f u)
    (hcmd : ∀ (u : State) (k : CommandUnit), f { u with cmd := k } = f u) (hact : ∀ u, f (act u) = f u) :
    f (s.takeCommand c act) = f s := by
  unfold State.takeCommand State.hostError
  split
  · rfl
  · split
    · exact hport _ _
    · rw [hact, hcmd]

/-- `writeCommand` changes no field but points, ring, stations, demands, xfer, trunkA, trunkB, eng, port, traffic,
cmd. -/
@[simp] theorem State.writeCommand_frame (s : State) (c : Word) :
    (s.writeCommand c).pending = s.pending ∧ (s.writeCommand c).set = s.set ∧ (s.writeCommand c).ram = s.ram ∧
    (s.writeCommand c).time = s.time ∧ (s.writeCommand c).lastGrant = s.lastGrant := by
  unfold State.writeCommand State.takeCommand
  repeat' (first | split | (dsimp only; split))
  all_goals simp

/-! ## Host accesses -/

/-- `answerRead` changes no field but port. -/
@[simp] theorem State.answerRead_frame (s : State) (w : Word) :
    (s.answerRead w).pending = s.pending ∧ (s.answerRead w).cmd = s.cmd ∧ (s.answerRead w).set = s.set ∧
    (s.answerRead w).eng = s.eng ∧ (s.answerRead w).xfer = s.xfer ∧ (s.answerRead w).stations = s.stations ∧
    (s.answerRead w).points = s.points ∧ (s.answerRead w).demands = s.demands ∧ (s.answerRead w).trunkA = s.trunkA ∧
    (s.answerRead w).trunkB = s.trunkB ∧ (s.answerRead w).ring = s.ring ∧ (s.answerRead w).ram = s.ram ∧
    (s.answerRead w).time = s.time ∧ (s.answerRead w).lastGrant = s.lastGrant ∧ (s.answerRead w).traffic = s.traffic := by
  unfold State.answerRead
  repeat' (first | split | (dsimp only; split))
  all_goals simp

/-- `readTimeLow` changes no field but port. -/
@[simp] theorem State.readTimeLow_frame (s : State) :
    s.readTimeLow.pending = s.pending ∧ s.readTimeLow.cmd = s.cmd ∧ s.readTimeLow.set = s.set ∧
    s.readTimeLow.eng = s.eng ∧ s.readTimeLow.xfer = s.xfer ∧ s.readTimeLow.stations = s.stations ∧
    s.readTimeLow.points = s.points ∧ s.readTimeLow.demands = s.demands ∧ s.readTimeLow.trunkA = s.trunkA ∧
    s.readTimeLow.trunkB = s.trunkB ∧ s.readTimeLow.ring = s.ring ∧ s.readTimeLow.ram = s.ram ∧
    s.readTimeLow.time = s.time ∧ s.readTimeLow.lastGrant = s.lastGrant ∧ s.readTimeLow.traffic = s.traffic := by
  unfold State.readTimeLow
  repeat' (first | split | (dsimp only; split))
  all_goals simp

/-- `takeRead` changes no field but port. -/
@[simp] theorem State.takeRead_frame (s : State) (r : Register) :
    (s.takeRead r).pending = s.pending ∧ (s.takeRead r).cmd = s.cmd ∧ (s.takeRead r).set = s.set ∧
    (s.takeRead r).eng = s.eng ∧ (s.takeRead r).xfer = s.xfer ∧ (s.takeRead r).stations = s.stations ∧
    (s.takeRead r).points = s.points ∧ (s.takeRead r).demands = s.demands ∧ (s.takeRead r).trunkA = s.trunkA ∧
    (s.takeRead r).trunkB = s.trunkB ∧ (s.takeRead r).ring = s.ring ∧ (s.takeRead r).ram = s.ram ∧
    (s.takeRead r).time = s.time ∧ (s.takeRead r).lastGrant = s.lastGrant ∧ (s.takeRead r).traffic = s.traffic := by
  unfold State.takeRead
  repeat' (first | split | (dsimp only; split))
  all_goals simp

/-- `store` changes no field but set. -/
@[simp] theorem State.store_frame (s : State) (c : Settings) :
    (s.store c).pending = s.pending ∧ (s.store c).port = s.port ∧ (s.store c).cmd = s.cmd ∧
    (s.store c).eng = s.eng ∧ (s.store c).xfer = s.xfer ∧ (s.store c).stations = s.stations ∧
    (s.store c).points = s.points ∧ (s.store c).demands = s.demands ∧ (s.store c).trunkA = s.trunkA ∧
    (s.store c).trunkB = s.trunkB ∧ (s.store c).ring = s.ring ∧ (s.store c).ram = s.ram ∧
    (s.store c).time = s.time ∧ (s.store c).lastGrant = s.lastGrant ∧ (s.store c).traffic = s.traffic := by
  and_intros <;> rfl

/-- `clearCauses` changes no field but port. -/
@[simp] theorem State.clearCauses_frame (s : State) (v : Word) :
    (s.clearCauses v).pending = s.pending ∧ (s.clearCauses v).cmd = s.cmd ∧ (s.clearCauses v).set = s.set ∧
    (s.clearCauses v).eng = s.eng ∧ (s.clearCauses v).xfer = s.xfer ∧ (s.clearCauses v).stations = s.stations ∧
    (s.clearCauses v).points = s.points ∧ (s.clearCauses v).demands = s.demands ∧
    (s.clearCauses v).trunkA = s.trunkA ∧ (s.clearCauses v).trunkB = s.trunkB ∧ (s.clearCauses v).ring = s.ring ∧
    (s.clearCauses v).ram = s.ram ∧ (s.clearCauses v).time = s.time ∧ (s.clearCauses v).lastGrant = s.lastGrant ∧
    (s.clearCauses v).traffic = s.traffic := by
  and_intros <;> rfl

/-- `clearHostError` changes no field but port. -/
@[simp] theorem State.clearHostError_frame (s : State) :
    s.clearHostError.pending = s.pending ∧ s.clearHostError.cmd = s.cmd ∧ s.clearHostError.set = s.set ∧
    s.clearHostError.eng = s.eng ∧ s.clearHostError.xfer = s.xfer ∧ s.clearHostError.stations = s.stations ∧
    s.clearHostError.points = s.points ∧ s.clearHostError.demands = s.demands ∧ s.clearHostError.trunkA = s.trunkA ∧
    s.clearHostError.trunkB = s.trunkB ∧ s.clearHostError.ring = s.ring ∧ s.clearHostError.ram = s.ram ∧
    s.clearHostError.time = s.time ∧ s.clearHostError.lastGrant = s.lastGrant ∧ s.clearHostError.traffic = s.traffic := by
  and_intros <;> rfl

/-- `writeArg` changes no field but cmd. -/
@[simp] theorem State.writeArg_frame (s : State) (i : Fin 4) (v : Word) :
    (s.writeArg i v).pending = s.pending ∧ (s.writeArg i v).port = s.port ∧ (s.writeArg i v).set = s.set ∧
    (s.writeArg i v).eng = s.eng ∧ (s.writeArg i v).xfer = s.xfer ∧ (s.writeArg i v).stations = s.stations ∧
    (s.writeArg i v).points = s.points ∧ (s.writeArg i v).demands = s.demands ∧ (s.writeArg i v).trunkA = s.trunkA ∧
    (s.writeArg i v).trunkB = s.trunkB ∧ (s.writeArg i v).ring = s.ring ∧ (s.writeArg i v).ram = s.ram ∧
    (s.writeArg i v).time = s.time ∧ (s.writeArg i v).lastGrant = s.lastGrant ∧ (s.writeArg i v).traffic = s.traffic := by
  and_intros <;> rfl

/-- `writeStation` changes no field but stations, port. -/
@[simp] theorem State.writeStation_frame (s : State) (w : StationWord) (v : Word) :
    (s.writeStation w v).pending = s.pending ∧ (s.writeStation w v).cmd = s.cmd ∧ (s.writeStation w v).set = s.set ∧
    (s.writeStation w v).eng = s.eng ∧ (s.writeStation w v).xfer = s.xfer ∧ (s.writeStation w v).points = s.points ∧
    (s.writeStation w v).demands = s.demands ∧ (s.writeStation w v).trunkA = s.trunkA ∧
    (s.writeStation w v).trunkB = s.trunkB ∧ (s.writeStation w v).ring = s.ring ∧ (s.writeStation w v).ram = s.ram ∧
    (s.writeStation w v).time = s.time ∧ (s.writeStation w v).lastGrant = s.lastGrant ∧
    (s.writeStation w v).traffic = s.traffic := by
  unfold State.writeStation
  repeat' (first | split | (dsimp only; split))
  all_goals simp

/-- `writeTrunkRate` changes no field but set, port. -/
@[simp] theorem State.writeTrunkRate_frame (s : State) (a : HostAddress) (v : Word) :
    (s.writeTrunkRate a v).pending = s.pending ∧ (s.writeTrunkRate a v).cmd = s.cmd ∧
    (s.writeTrunkRate a v).eng = s.eng ∧ (s.writeTrunkRate a v).xfer = s.xfer ∧
    (s.writeTrunkRate a v).stations = s.stations ∧ (s.writeTrunkRate a v).points = s.points ∧
    (s.writeTrunkRate a v).demands = s.demands ∧ (s.writeTrunkRate a v).trunkA = s.trunkA ∧
    (s.writeTrunkRate a v).trunkB = s.trunkB ∧ (s.writeTrunkRate a v).ring = s.ring ∧
    (s.writeTrunkRate a v).ram = s.ram ∧ (s.writeTrunkRate a v).time = s.time ∧
    (s.writeTrunkRate a v).lastGrant = s.lastGrant ∧ (s.writeTrunkRate a v).traffic = s.traffic := by
  unfold State.writeTrunkRate State.judge
  repeat' (first | split | (dsimp only; split))
  all_goals simp

/-- `writeRegister` changes no field but points, ring, stations, demands, xfer, trunkA, trunkB, eng, port, traffic,
cmd, set. -/
@[simp] theorem State.writeRegister_frame (s : State) (r : Register) (a : HostAddress) (v : Word) :
    (s.writeRegister r a v).pending = s.pending ∧ (s.writeRegister r a v).time = s.time ∧
    (s.writeRegister r a v).ram = s.ram ∧ (s.writeRegister r a v).lastGrant = s.lastGrant := by
  unfold State.writeRegister State.judge
  repeat' (first | split | (dsimp only; split))
  all_goals simp

/-- `sharedAccess` changes no field but port, ram, traffic, lastGrant. -/
@[simp] theorem State.sharedAccess_frame (s : State) (n : Nat) (a : Access) :
    (s.sharedAccess n a).pending = s.pending ∧ (s.sharedAccess n a).cmd = s.cmd ∧ (s.sharedAccess n a).set = s.set ∧
    (s.sharedAccess n a).eng = s.eng ∧ (s.sharedAccess n a).xfer = s.xfer ∧
    (s.sharedAccess n a).stations = s.stations ∧ (s.sharedAccess n a).points = s.points ∧
    (s.sharedAccess n a).demands = s.demands ∧ (s.sharedAccess n a).trunkA = s.trunkA ∧
    (s.sharedAccess n a).trunkB = s.trunkB ∧ (s.sharedAccess n a).ring = s.ring ∧ (s.sharedAccess n a).time = s.time := by
  unfold State.sharedAccess
  repeat' (first | split | (dsimp only; split))
  all_goals simp

/-- `unmappedAccess` changes no field but port. -/
@[simp] theorem State.unmappedAccess_frame (s : State) (h : HostAddress) (a : Access) :
    (s.unmappedAccess h a).pending = s.pending ∧ (s.unmappedAccess h a).cmd = s.cmd ∧
    (s.unmappedAccess h a).set = s.set ∧ (s.unmappedAccess h a).eng = s.eng ∧ (s.unmappedAccess h a).xfer = s.xfer ∧
    (s.unmappedAccess h a).stations = s.stations ∧ (s.unmappedAccess h a).points = s.points ∧
    (s.unmappedAccess h a).demands = s.demands ∧ (s.unmappedAccess h a).trunkA = s.trunkA ∧
    (s.unmappedAccess h a).trunkB = s.trunkB ∧ (s.unmappedAccess h a).ring = s.ring ∧
    (s.unmappedAccess h a).ram = s.ram ∧ (s.unmappedAccess h a).time = s.time ∧
    (s.unmappedAccess h a).lastGrant = s.lastGrant ∧ (s.unmappedAccess h a).traffic = s.traffic := by
  unfold State.unmappedAccess
  repeat' (first | split | (dsimp only; split))
  all_goals simp

/-- `registerAccess` changes no field but points, ring, stations, demands, xfer, trunkA, trunkB, eng, port, traffic,
cmd, set. -/
@[simp] theorem State.registerAccess_frame (s : State) (r : Register) (h : HostAddress) (a : Access) :
    (s.registerAccess r h a).pending = s.pending ∧ (s.registerAccess r h a).time = s.time ∧
    (s.registerAccess r h a).ram = s.ram ∧ (s.registerAccess r h a).lastGrant = s.lastGrant := by
  unfold State.registerAccess
  repeat' (first | split | (dsimp only; split))
  all_goals simp

/-- `hostAccess` changes no field but points, ring, stations, demands, xfer, trunkA, trunkB, eng, port, traffic, cmd,
set, ram, lastGrant. -/
@[simp] theorem State.hostAccess_frame (s : State) (h : HostAddress) (a : Access) :
    (s.hostAccess h a).pending = s.pending ∧ (s.hostAccess h a).time = s.time := by
  unfold State.hostAccess
  repeat' (first | split | (dsimp only; split))
  all_goals simp

/-! ## Commands as they are taken -/

/-- A write to COMMAND leaves pending alone if its command does. -/
@[simp] theorem State.takeCommand_pending (s : State) (c : Word) (act : State → State) (h : ∀ u, (act u).pending = u.pending) :
    (s.takeCommand c act).pending = s.pending := by
  unfold State.takeCommand
  repeat' split
  all_goals simp [h]

/-- A write to COMMAND leaves set alone if its command does. -/
@[simp] theorem State.takeCommand_set (s : State) (c : Word) (act : State → State) (h : ∀ u, (act u).set = u.set) :
    (s.takeCommand c act).set = s.set := by
  unfold State.takeCommand
  repeat' split
  all_goals simp [h]

/-- A write to COMMAND leaves eng alone if its command does. -/
@[simp] theorem State.takeCommand_eng (s : State) (c : Word) (act : State → State) (h : ∀ u, (act u).eng = u.eng) :
    (s.takeCommand c act).eng = s.eng := by
  unfold State.takeCommand
  repeat' split
  all_goals simp [h]

/-- A write to COMMAND leaves xfer alone if its command does. -/
@[simp] theorem State.takeCommand_xfer (s : State) (c : Word) (act : State → State) (h : ∀ u, (act u).xfer = u.xfer) :
    (s.takeCommand c act).xfer = s.xfer := by
  unfold State.takeCommand
  repeat' split
  all_goals simp [h]

/-- A write to COMMAND leaves stations alone if its command does. -/
@[simp] theorem State.takeCommand_stations (s : State) (c : Word) (act : State → State) (h : ∀ u, (act u).stations = u.stations) :
    (s.takeCommand c act).stations = s.stations := by
  unfold State.takeCommand
  repeat' split
  all_goals simp [h]

/-- A write to COMMAND leaves points alone if its command does. -/
@[simp] theorem State.takeCommand_points (s : State) (c : Word) (act : State → State) (h : ∀ u, (act u).points = u.points) :
    (s.takeCommand c act).points = s.points := by
  unfold State.takeCommand
  repeat' split
  all_goals simp [h]

/-- A write to COMMAND leaves demands alone if its command does. -/
@[simp] theorem State.takeCommand_demands (s : State) (c : Word) (act : State → State) (h : ∀ u, (act u).demands = u.demands) :
    (s.takeCommand c act).demands = s.demands := by
  unfold State.takeCommand
  repeat' split
  all_goals simp [h]

/-- A write to COMMAND leaves trunkA alone if its command does. -/
@[simp] theorem State.takeCommand_trunkA (s : State) (c : Word) (act : State → State) (h : ∀ u, (act u).trunkA = u.trunkA) :
    (s.takeCommand c act).trunkA = s.trunkA := by
  unfold State.takeCommand
  repeat' split
  all_goals simp [h]

/-- A write to COMMAND leaves trunkB alone if its command does. -/
@[simp] theorem State.takeCommand_trunkB (s : State) (c : Word) (act : State → State) (h : ∀ u, (act u).trunkB = u.trunkB) :
    (s.takeCommand c act).trunkB = s.trunkB := by
  unfold State.takeCommand
  repeat' split
  all_goals simp [h]

/-- A write to COMMAND leaves ring alone if its command does. -/
@[simp] theorem State.takeCommand_ring (s : State) (c : Word) (act : State → State) (h : ∀ u, (act u).ring = u.ring) :
    (s.takeCommand c act).ring = s.ring := by
  unfold State.takeCommand
  repeat' split
  all_goals simp [h]

/-- A write to COMMAND leaves ram alone if its command does. -/
@[simp] theorem State.takeCommand_ram (s : State) (c : Word) (act : State → State) (h : ∀ u, (act u).ram = u.ram) :
    (s.takeCommand c act).ram = s.ram := by
  unfold State.takeCommand
  repeat' split
  all_goals simp [h]

/-- A write to COMMAND leaves time alone if its command does. -/
@[simp] theorem State.takeCommand_time (s : State) (c : Word) (act : State → State) (h : ∀ u, (act u).time = u.time) :
    (s.takeCommand c act).time = s.time := by
  unfold State.takeCommand
  repeat' split
  all_goals simp [h]

/-- A write to COMMAND leaves lastGrant alone if its command does. -/
@[simp] theorem State.takeCommand_lastGrant (s : State) (c : Word) (act : State → State) (h : ∀ u, (act u).lastGrant = u.lastGrant) :
    (s.takeCommand c act).lastGrant = s.lastGrant := by
  unfold State.takeCommand
  repeat' split
  all_goals simp [h]

/-- A write to COMMAND leaves traffic alone if its command does. -/
@[simp] theorem State.takeCommand_traffic (s : State) (c : Word) (act : State → State) (h : ∀ u, (act u).traffic = u.traffic) :
    (s.takeCommand c act).traffic = s.traffic := by
  unfold State.takeCommand
  repeat' split
  all_goals simp [h]

/-- `endValidation` changes no field but eng, ring, cmd, port, traffic, lastGrant, ram. -/
@[simp] theorem State.endValidation_frame (s : State) :
    s.endValidation.pending = s.pending ∧ s.endValidation.set = s.set ∧ s.endValidation.xfer = s.xfer ∧
    s.endValidation.stations = s.stations ∧ s.endValidation.points = s.points ∧
    s.endValidation.demands = s.demands ∧ s.endValidation.trunkA = s.trunkA ∧ s.endValidation.trunkB = s.trunkB ∧
    s.endValidation.time = s.time := by
  unfold State.endValidation
  repeat' (first | split | (dsimp only; split))
  all_goals simp

/-- `endPointRead` changes no field but points, ring, cmd, port, traffic, lastGrant, ram. -/
@[simp] theorem State.endPointRead_frame (s : State) :
    s.endPointRead.pending = s.pending ∧ s.endPointRead.set = s.set ∧ s.endPointRead.eng = s.eng ∧
    s.endPointRead.xfer = s.xfer ∧ s.endPointRead.stations = s.stations ∧ s.endPointRead.demands = s.demands ∧
    s.endPointRead.trunkA = s.trunkA ∧ s.endPointRead.trunkB = s.trunkB ∧ s.endPointRead.time = s.time := by
  unfold State.endPointRead
  repeat' (first | split | (dsimp only; split))
  all_goals simp

/-- `endPostCheck` changes no field but demands, cmd, port, traffic, lastGrant, ram. -/
@[simp] theorem State.endPostCheck_frame (s : State) :
    s.endPostCheck.pending = s.pending ∧ s.endPostCheck.set = s.set ∧ s.endPostCheck.eng = s.eng ∧
    s.endPostCheck.xfer = s.xfer ∧ s.endPostCheck.stations = s.stations ∧ s.endPostCheck.points = s.points ∧
    s.endPostCheck.trunkA = s.trunkA ∧ s.endPostCheck.trunkB = s.trunkB ∧ s.endPostCheck.ring = s.ring ∧
    s.endPostCheck.time = s.time := by
  unfold State.endPostCheck
  repeat' (first | split | (dsimp only; split))
  all_goals simp

/-- `commandWrite` changes no field but port, cmd, set, eng, xfer, stations, points, demands, trunkA, trunkB, ring,
ram, lastGrant, traffic. -/
@[simp] theorem State.commandWrite_frame (s : State) (c : Word) :
    (s.commandWrite c).pending = s.pending ∧ (s.commandWrite c).time = s.time := by
  unfold State.commandWrite
  repeat' (first | split | (dsimp only; split))
  all_goals simp

/-- `pinReset` changes no field but port, cmd, set, eng, xfer, stations, points, demands, trunkA, trunkB, ring, time,
lastGrant, traffic. -/
@[simp] theorem State.pinReset_frame (s : State) :
    s.pinReset.pending = s.pending ∧ s.pinReset.ram = s.ram := by
  and_intros <;> rfl

/-- `resetRelease` changes no field but port. -/
@[simp] theorem State.resetRelease_frame (s : State) :
    s.resetRelease.pending = s.pending ∧ s.resetRelease.cmd = s.cmd ∧ s.resetRelease.set = s.set ∧
    s.resetRelease.eng = s.eng ∧ s.resetRelease.xfer = s.xfer ∧ s.resetRelease.stations = s.stations ∧
    s.resetRelease.points = s.points ∧ s.resetRelease.demands = s.demands ∧ s.resetRelease.trunkA = s.trunkA ∧
    s.resetRelease.trunkB = s.trunkB ∧ s.resetRelease.ring = s.ring ∧ s.resetRelease.ram = s.ram ∧
    s.resetRelease.time = s.time ∧ s.resetRelease.lastGrant = s.lastGrant ∧ s.resetRelease.traffic = s.traffic := by
  and_intros <;> rfl

/-! ## Events of the lines -/

/-- `burstFallsDue` changes no field but time, eng, cmd, trunkA, trunkB, xfer, ram, traffic, lastGrant. -/
@[simp] theorem State.burstFallsDue_frame (s : State) (t : TrunkId) :
    (s.burstFallsDue t).pending = s.pending ∧ (s.burstFallsDue t).port = s.port ∧ (s.burstFallsDue t).set = s.set ∧
    (s.burstFallsDue t).stations = s.stations ∧ (s.burstFallsDue t).points = s.points ∧
    (s.burstFallsDue t).demands = s.demands ∧ (s.burstFallsDue t).ring = s.ring := by
  unfold State.burstFallsDue
  repeat' (first | split | (dsimp only; split))
  all_goals simp

/-- `sendBurst` changes no field but trunkA, trunkB. -/
@[simp] theorem State.sendBurst_frame (s : State) (t : TrunkId) :
    (s.sendBurst t).pending = s.pending ∧ (s.sendBurst t).port = s.port ∧ (s.sendBurst t).cmd = s.cmd ∧
    (s.sendBurst t).set = s.set ∧ (s.sendBurst t).eng = s.eng ∧ (s.sendBurst t).xfer = s.xfer ∧
    (s.sendBurst t).stations = s.stations ∧ (s.sendBurst t).points = s.points ∧
    (s.sendBurst t).demands = s.demands ∧ (s.sendBurst t).ring = s.ring ∧ (s.sendBurst t).ram = s.ram ∧
    (s.sendBurst t).time = s.time ∧ (s.sendBurst t).lastGrant = s.lastGrant ∧ (s.sendBurst t).traffic = s.traffic := by
  unfold State.sendBurst
  repeat' (first | split | (dsimp only; split))
  all_goals simp

/-- `startBurst` changes no field but time, eng, cmd, trunkA, trunkB, xfer, ram, traffic, lastGrant. -/
@[simp] theorem State.startBurst_frame (s : State) (t : TrunkId) :
    (s.startBurst t).pending = s.pending ∧ (s.startBurst t).port = s.port ∧ (s.startBurst t).set = s.set ∧
    (s.startBurst t).stations = s.stations ∧ (s.startBurst t).points = s.points ∧
    (s.startBurst t).demands = s.demands ∧ (s.startBurst t).ring = s.ring := by
  unfold State.startBurst
  repeat' (first | split | (dsimp only; split))
  all_goals simp

/-- `judgeBurst` changes no field but trunkA, trunkB, ring. -/
@[simp] theorem State.judgeBurst_frame (s : State) (t : TrunkId) (e : Echo) :
    (s.judgeBurst t e).pending = s.pending ∧ (s.judgeBurst t e).port = s.port ∧ (s.judgeBurst t e).cmd = s.cmd ∧
    (s.judgeBurst t e).set = s.set ∧ (s.judgeBurst t e).eng = s.eng ∧ (s.judgeBurst t e).xfer = s.xfer ∧
    (s.judgeBurst t e).stations = s.stations ∧ (s.judgeBurst t e).points = s.points ∧
    (s.judgeBurst t e).demands = s.demands ∧ (s.judgeBurst t e).ram = s.ram ∧ (s.judgeBurst t e).time = s.time ∧
    (s.judgeBurst t e).lastGrant = s.lastGrant ∧ (s.judgeBurst t e).traffic = s.traffic := by
  unfold State.judgeBurst
  repeat' (first | split | (dsimp only; split))
  all_goals simp

/-- `endBurst` changes no field but cmd, eng, xfer, trunkA, trunkB, ring, ram, time, traffic, lastGrant. -/
@[simp] theorem State.endBurst_frame (s : State) (t : TrunkId) (e : List BitTime) :
    (s.endBurst t e).pending = s.pending ∧ (s.endBurst t e).port = s.port ∧ (s.endBurst t e).set = s.set ∧
    (s.endBurst t e).stations = s.stations ∧ (s.endBurst t e).points = s.points ∧
    (s.endBurst t e).demands = s.demands := by
  unfold State.endBurst
  repeat' (first | split | (dsimp only; split))
  all_goals simp

/-- `failTraining` changes no field but trunkA, trunkB, ring. -/
@[simp] theorem State.failTraining_frame (s : State) (t : TrunkId) :
    (s.failTraining t).pending = s.pending ∧ (s.failTraining t).port = s.port ∧ (s.failTraining t).cmd = s.cmd ∧
    (s.failTraining t).set = s.set ∧ (s.failTraining t).eng = s.eng ∧ (s.failTraining t).xfer = s.xfer ∧
    (s.failTraining t).stations = s.stations ∧ (s.failTraining t).points = s.points ∧
    (s.failTraining t).demands = s.demands ∧ (s.failTraining t).ram = s.ram ∧ (s.failTraining t).time = s.time ∧
    (s.failTraining t).lastGrant = s.lastGrant ∧ (s.failTraining t).traffic = s.traffic := by
  unfold State.failTraining
  repeat' (first | split | (dsimp only; split))
  all_goals simp

/-- `trainingExpires` changes no field but cmd, eng, xfer, trunkA, trunkB, ring, ram, time, traffic, lastGrant. -/
@[simp] theorem State.trainingExpires_frame (s : State) (t : TrunkId) :
    (s.trainingExpires t).pending = s.pending ∧ (s.trainingExpires t).port = s.port ∧
    (s.trainingExpires t).set = s.set ∧ (s.trainingExpires t).stations = s.stations ∧
    (s.trainingExpires t).points = s.points ∧ (s.trainingExpires t).demands = s.demands := by
  unfold State.trainingExpires
  repeat' (first | split | (dsimp only; split))
  all_goals simp

/-! ## Events of rounds and slots -/

/-- `roundTimerEnds` changes no field but port, cmd, eng, xfer, stations, demands, trunkA, trunkB, ring, ram, time,
traffic, lastGrant. -/
@[simp] theorem State.roundTimerEnds_frame (s : State) :
    s.roundTimerEnds.pending = s.pending ∧ s.roundTimerEnds.set = s.set ∧ s.roundTimerEnds.points = s.points := by
  unfold State.roundTimerEnds
  repeat' (first | split | (dsimp only; split))
  all_goals simp

/-- `endSlotRead` changes no field but eng, stations, demands, ring, traffic, port, points, xfer, lastGrant, ram. -/
@[simp] theorem State.endSlotRead_frame (s : State) :
    s.endSlotRead.pending = s.pending ∧ s.endSlotRead.cmd = s.cmd ∧ s.endSlotRead.set = s.set ∧
    s.endSlotRead.trunkA = s.trunkA ∧ s.endSlotRead.trunkB = s.trunkB ∧ s.endSlotRead.time = s.time := by
  unfold State.endSlotRead
  repeat' (first | split | (dsimp only; split))
  all_goals simp

/-- `endDemandRead` changes no field but eng, stations, demands, ring, traffic, port, points, xfer, lastGrant, ram. -/
@[simp] theorem State.endDemandRead_frame (s : State) :
    s.endDemandRead.pending = s.pending ∧ s.endDemandRead.cmd = s.cmd ∧ s.endDemandRead.set = s.set ∧
    s.endDemandRead.trunkA = s.trunkA ∧ s.endDemandRead.trunkB = s.trunkB ∧ s.endDemandRead.time = s.time := by
  unfold State.endDemandRead
  repeat' (first | split | (dsimp only; split))
  all_goals simp

/-- `endPause` changes no field but port, cmd, eng, xfer, stations, demands, trunkA, trunkB, ring, ram, time, traffic,
lastGrant. -/
@[simp] theorem State.endPause_frame (s : State) :
    s.endPause.pending = s.pending ∧ s.endPause.set = s.set ∧ s.endPause.points = s.points := by
  unfold State.endPause
  repeat' (first | split | (dsimp only; split))
  all_goals simp

/-! ## Events of an attempt -/

/-- `startCall` changes no field but time, eng, cmd, trunkA, trunkB, xfer, ram, traffic, lastGrant. -/
@[simp] theorem State.startCall_frame (s : State) (x : Transfer) :
    (s.startCall x).pending = s.pending ∧ (s.startCall x).port = s.port ∧ (s.startCall x).set = s.set ∧
    (s.startCall x).stations = s.stations ∧ (s.startCall x).points = s.points ∧
    (s.startCall x).demands = s.demands ∧ (s.startCall x).ring = s.ring := by
  unfold State.startCall State.onTransfer
  repeat' (first | split | (dsimp only; split))
  all_goals simp

/-- `guardRunsOut` changes no field but eng, stations, demands, ring, traffic, port, points, xfer, trunkA, trunkB,
cmd. -/
@[simp] theorem State.guardRunsOut_frame (s : State) (x : Transfer) :
    (s.guardRunsOut x).pending = s.pending ∧ (s.guardRunsOut x).set = s.set ∧ (s.guardRunsOut x).ram = s.ram ∧
    (s.guardRunsOut x).time = s.time ∧ (s.guardRunsOut x).lastGrant = s.lastGrant := by
  unfold State.guardRunsOut
  repeat' (first | split | (dsimp only; split))
  all_goals simp

/-- `endGuard` changes no field but port, cmd, eng, xfer, stations, points, demands, trunkA, trunkB, ring, ram, time,
traffic, lastGrant. -/
@[simp] theorem State.endGuard_frame (s : State) (x : Transfer) :
    (s.endGuard x).pending = s.pending ∧ (s.endGuard x).set = s.set := by
  unfold State.endGuard State.onTransfer
  repeat' (first | split | (dsimp only; split))
  all_goals simp

/-- `judgeEcho` changes no field but eng, stations, demands, ring, traffic, port, points, xfer, trunkA, trunkB, cmd. -/
@[simp] theorem State.judgeEcho_frame (s : State) (e : List BitTime) (x : Transfer) :
    (s.judgeEcho e x).pending = s.pending ∧ (s.judgeEcho e x).set = s.set ∧ (s.judgeEcho e x).ram = s.ram ∧
    (s.judgeEcho e x).time = s.time ∧ (s.judgeEcho e x).lastGrant = s.lastGrant := by
  unfold State.judgeEcho
  repeat' (first | split | (dsimp only; split))
  all_goals simp

/-- `endCall` changes no field but port, cmd, eng, xfer, stations, points, demands, trunkA, trunkB, ring, ram, time,
traffic, lastGrant. -/
@[simp] theorem State.endCall_frame (s : State) (e : List BitTime) (x : Transfer) :
    (s.endCall e x).pending = s.pending ∧ (s.endCall e x).set = s.set := by
  unfold State.endCall State.onTransfer
  repeat' (first | split | (dsimp only; split))
  all_goals simp

/-- `windowCloses` changes no field but eng, stations, demands, ring, traffic, port, points, xfer, trunkA, trunkB,
cmd. -/
@[simp] theorem State.windowCloses_frame (s : State) (x : Transfer) :
    (s.windowCloses x).pending = s.pending ∧ (s.windowCloses x).set = s.set ∧ (s.windowCloses x).ram = s.ram ∧
    (s.windowCloses x).time = s.time ∧ (s.windowCloses x).lastGrant = s.lastGrant := by
  unfold State.windowCloses
  repeat' (first | split | (dsimp only; split))
  all_goals simp

/-- `endWindow` changes no field but port, cmd, eng, xfer, stations, points, demands, trunkA, trunkB, ring, ram, time,
traffic, lastGrant. -/
@[simp] theorem State.endWindow_frame (s : State) (x : Transfer) :
    (s.endWindow x).pending = s.pending ∧ (s.endWindow x).set = s.set := by
  unfold State.endWindow State.onTransfer
  repeat' (first | split | (dsimp only; split))
  all_goals simp

/-- `hearLateAnswer` changes no field but trunkA, trunkB. -/
@[simp] theorem State.hearLateAnswer_frame (s : State) (x : Transfer) (f : AnswerFrame) :
    (s.hearLateAnswer x f).pending = s.pending ∧ (s.hearLateAnswer x f).port = s.port ∧
    (s.hearLateAnswer x f).cmd = s.cmd ∧ (s.hearLateAnswer x f).set = s.set ∧ (s.hearLateAnswer x f).eng = s.eng ∧
    (s.hearLateAnswer x f).xfer = s.xfer ∧ (s.hearLateAnswer x f).stations = s.stations ∧
    (s.hearLateAnswer x f).points = s.points ∧ (s.hearLateAnswer x f).demands = s.demands ∧
    (s.hearLateAnswer x f).ring = s.ring ∧ (s.hearLateAnswer x f).ram = s.ram ∧
    (s.hearLateAnswer x f).time = s.time ∧ (s.hearLateAnswer x f).lastGrant = s.lastGrant ∧
    (s.hearLateAnswer x f).traffic = s.traffic := by
  simp [State.hearLateAnswer]

/-- `detectSync` changes no field but trunkA, trunkB, points, xfer. -/
@[simp] theorem State.detectSync_frame (s : State) (f : AnswerFrame) (x : Transfer) :
    (s.detectSync f x).pending = s.pending ∧ (s.detectSync f x).port = s.port ∧ (s.detectSync f x).cmd = s.cmd ∧
    (s.detectSync f x).set = s.set ∧ (s.detectSync f x).eng = s.eng ∧ (s.detectSync f x).stations = s.stations ∧
    (s.detectSync f x).demands = s.demands ∧ (s.detectSync f x).ring = s.ring ∧ (s.detectSync f x).ram = s.ram ∧
    (s.detectSync f x).time = s.time ∧ (s.detectSync f x).lastGrant = s.lastGrant ∧
    (s.detectSync f x).traffic = s.traffic := by
  unfold State.detectSync
  repeat' (first | split | (dsimp only; split))
  all_goals simp

/-- `judgeAnswer` changes no field but eng, stations, demands, ring, traffic, port, points, xfer, trunkA, trunkB, cmd. -/
@[simp] theorem State.judgeAnswer_frame (s : State) (x : Transfer) :
    (s.judgeAnswer x).pending = s.pending ∧ (s.judgeAnswer x).set = s.set ∧ (s.judgeAnswer x).ram = s.ram ∧
    (s.judgeAnswer x).time = s.time ∧ (s.judgeAnswer x).lastGrant = s.lastGrant := by
  unfold State.judgeAnswer
  repeat' (first | split | (dsimp only; split))
  all_goals simp

/-- `endReception` changes no field but port, cmd, eng, xfer, stations, points, demands, trunkA, trunkB, ring, ram,
time, traffic, lastGrant. -/
@[simp] theorem State.endReception_frame (s : State) (x : Transfer) :
    (s.endReception x).pending = s.pending ∧ (s.endReception x).set = s.set := by
  unfold State.endReception State.onTransfer
  repeat' (first | split | (dsimp only; split))
  all_goals simp

end Sys2Proof.Machine
end

