-- ==== Sys2Proof/Laws/Events.lean ====
section
/-! SUPPORT. What an event that the part times itself can do: nothing, or let the time left to it pass and act. One
lemma for each event, and what the passing of time makes of the transfer in progress. -/

namespace Sys2Proof.Machine

/-! ## Time and the transfer in progress -/

/-- Time changes no more of a transfer than how far its attempt has come. -/
theorem State.elapse_xfer {s : State} {x : Transfer} (h : s.xfer = some x) (n : Nat) :
    ∃ phase, (s.elapse n).xfer = some { x with phase } := by
  unfold State.elapse State.elapseAttempt
  dsimp only
  rw [h]
  dsimp only
  repeat' (first | split | (dsimp only; split))
  all_goals first
    | exact ⟨_, rfl⟩
    | (simp only [State.storeAnswer_frame]; exact ⟨_, rfl⟩)
    | exact ⟨x.phase, h⟩

/-- Time begins and ends no transfer. -/
theorem State.elapse_xfer_none {s : State} (h : s.xfer = none) (n : Nat) : (s.elapse n).xfer = none := by
  unfold State.elapse State.elapseAttempt
  dsimp only
  rw [h]
  exact h

/-- A transfer is in progress after some time exactly if it was before. -/
@[simp] theorem State.elapse_xfer_isSome (s : State) (n : Nat) : (s.elapse n).xfer.isSome = s.xfer.isSome := by
  cases h : s.xfer with
  | none => rw [State.elapse_xfer_none h]
  | some x =>
    obtain ⟨phase, hp⟩ := State.elapse_xfer h n
    rw [hp]
    rfl

/-- A call on the line stays on the line, its time counted on and its words read as they are needed (R57). -/
theorem State.elapse_sending {s : State} {x : Transfer} {elapsed length : Nat} {h0 h1 : Word} {payload : List Word}
    (h : s.xfer = some x) (hp : x.phase = .sending elapsed h0 h1 length payload) (n : Nat) :
    (s.elapse n).xfer = some
      { x with
        phase := .sending (elapsed + n) h0 h1 length
          (s.readPayload (s.sendPage x) payload
            (wordsNeeded s.halfMicros (elapsed + n) length - payload.length)).2 } := by
  unfold State.elapse State.elapseAttempt
  dsimp only
  rw [h]
  dsimp only
  rw [hp]

/-- An open window stays open, its time counted down (R59). -/
theorem State.elapse_window {s : State} {x : Transfer} {left : Nat} (h : s.xfer = some x) (hp : x.phase = .window left)
    (n : Nat) : (s.elapse n).xfer = some { x with phase := .window (left - n) } := by
  unfold State.elapse State.elapseAttempt
  dsimp only
  rw [h]
  dsimp only
  rw [hp]

/-- A reception goes on, its words stored as they arrive (R61). -/
theorem State.elapse_receiving {s : State} {x : Transfer} {elapsed stored : Nat} {f : AnswerFrame} {page : Option Nat}
    (h : s.xfer = some x) (hp : x.phase = .receiving elapsed f page stored) (n : Nat) :
    ∃ stored', (s.elapse n).xfer = some { x with phase := .receiving (elapsed + n) f page stored' } := by
  unfold State.elapse State.elapseAttempt
  dsimp only
  rw [h]
  dsimp only
  rw [hp]
  dsimp only
  split
  · exact ⟨_, rfl⟩
  · simp only [State.storeAnswer_frame]
    exact ⟨_, rfl⟩

/-- What time alone makes of the RAM: nothing, unless words of a call are read or of an answer stored, between which the
other requesters are served (R57, R61, R169). -/
theorem State.elapse_ram_idle {s : State} (n : Nat)
    (hr : ∀ x elapsed f page stored, s.xfer = some x → x.phase ≠ .receiving elapsed f (some page) stored)
    (hs : ∀ x a b c d e, s.xfer = some x → x.phase ≠ .sending a b c d e) : (s.elapse n).ram = s.ram := by
  unfold State.elapse State.elapseAttempt
  dsimp only
  cases hx : s.xfer with
  | none => rfl
  | some x =>
    dsimp only
    cases hp : x.phase with
    | receiving elapsed f page stored =>
      cases page with
      | none => rfl
      | some page => exact absurd hp (hr x _ _ _ _ hx)
    | gap =>
      dsimp only
      split <;> rfl
    | occupancy left lapsed => rfl
    | sending a b c d e => exact absurd hp (hs x _ _ _ _ _ hx)
    | window left => rfl

/-! ## Completions that wait for quiet (R29, R46) -/

/-- ABORT_COMPLETE does nothing, or lets the quiet come and completes. -/
theorem State.abortComplete_cases (s : State) :
    s.abortComplete = s ∨ ∃ n, s.abortComplete = (s.elapse n).complete .done 0 := by
  unfold State.abortComplete
  repeat' split
  all_goals first | exact .inl rfl | exact .inr ⟨_, rfl⟩

/-- ENGINE_RESET_COMPLETE does nothing, or lets the quiet come and completes. -/
theorem State.engineResetComplete_cases (s : State) :
    s.engineResetComplete = s ∨ ∃ n, s.engineResetComplete = (s.elapse n).complete .done 0 := by
  unfold State.engineResetComplete
  repeat' split
  all_goals first | exact .inl rfl | exact .inr ⟨_, rfl⟩

/-! ## Rounds and slots -/

/-- ROUND_TIMER_EXPIRY does nothing unless the timer is RUNNING. -/
theorem State.roundTimerEnds_cases (s : State) :
    s.roundTimerEnds = s ∨
      ∃ left, s.eng.timer = .running left ∧ s.roundTimerEnds = (s.elapse left).timerExpired := by
  unfold State.roundTimerEnds
  split
  · exact .inr ⟨_, by assumption, rfl⟩
  all_goals exact .inl rfl

/-- SLOT_RECORD_READ_DONE does nothing unless the records of a slot are being read. -/
theorem State.endSlotRead_cases (s : State) :
    s.endSlotRead = s ∨ ∃ elapsed, s.eng.phase = .reading elapsed ∧ s.endSlotRead = s.slotReadDone elapsed := by
  unfold State.endSlotRead
  split
  · exact .inr ⟨_, by assumption, rfl⟩
  all_goals exact .inl rfl

/-- DEMAND_RECORD_READ_DONE does nothing unless the record of a taken demand is being read. -/
theorem State.endDemandRead_cases (s : State) :
    s.endDemandRead = s ∨
      ∃ retries, s.eng.phase = .demandReading retries ∧ s.endDemandRead = s.demandReadDone retries := by
  unfold State.endDemandRead
  split
  · exact .inr ⟨_, by assumption, rfl⟩
  all_goals exact .inl rfl

/-- PAUSE_END does nothing unless a PAUSE slot waits. -/
theorem State.endPause_cases (s : State) :
    s.endPause = s ∨ ∃ left, s.eng.phase = .pausing left ∧ s.endPause = (s.elapse left).endSlot := by
  unfold State.endPause
  split
  · exact .inr ⟨_, by assumption, rfl⟩
  all_goals exact .inl rfl

/-! ## Held commands -/

/-- PLAN_VALIDATION_DONE does nothing unless a validation is held. -/
theorem State.endValidation_cases (s : State) :
    s.endValidation = s ∨ ∃ forSwitch bank base, s.endValidation = s.validationDone forSwitch bank base := by
  unfold State.endValidation
  repeat' split
  all_goals first | exact .inl rfl | exact .inr ⟨_, _, _, rfl⟩

/-- POINT_COMMAND_READ_DONE does nothing unless a point command is held. -/
theorem State.endPointRead_cases (s : State) :
    s.endPointRead = s ∨ ∃ command p, s.endPointRead = s.pointReadDone command p := by
  unfold State.endPointRead
  repeat' split
  all_goals first | exact .inl rfl | exact .inr ⟨_, _, rfl⟩

/-- DEMAND_POST_CHECK_DONE does nothing unless a post is held. -/
theorem State.endPostCheck_cases (s : State) :
    s.endPostCheck = s ∨ ∃ p high deadline tag, s.endPostCheck = s.postCheckDone p high deadline tag := by
  unfold State.endPostCheck
  repeat' split
  all_goals first | exact .inl rfl | exact .inr ⟨_, _, _, _, rfl⟩

/-! ## Attempts -/

/-- CALL_TRANSMIT_START does nothing, or lets the gap and the wait for quiet pass and sends the call. -/
theorem State.startCall_cases (s : State) :
    s.onTransfer State.startCall = s ∨
      ∃ x delay y, s.xfer = some x ∧ s.transmitDelay x = some delay ∧ (s.elapse delay).xfer = some y ∧
        s.onTransfer State.startCall = (s.elapse delay).sendCall y := by
  cases h : s.xfer with
  | none => exact .inl (by simp [State.onTransfer, h])
  | some x =>
    cases hd : s.transmitDelay x with
    | none => exact .inl (by simp [State.onTransfer, h, State.startCall, hd])
    | some delay =>
      obtain ⟨phase, hp⟩ := State.elapse_xfer h delay
      exact .inr ⟨x, delay, _, rfl, hd, hp, by simp [State.onTransfer, h, State.startCall, hd, hp]⟩

/-- OCCUPANCY_GUARD_EXPIRY does nothing, or lets the guard run out and ends the attempt OCCUPIED. -/
theorem State.endGuard_cases (s : State) :
    s.onTransfer State.endGuard = s ∨
      ∃ x delay y, s.xfer = some x ∧ s.guardDelay x = some delay ∧ (s.elapse delay).xfer = some y ∧
        s.onTransfer State.endGuard = (s.elapse delay).guardRunsOut y := by
  cases h : s.xfer with
  | none => exact .inl (by simp [State.onTransfer, h])
  | some x =>
    cases hd : s.guardDelay x with
    | none => exact .inl (by simp [State.onTransfer, h, State.endGuard, hd])
    | some delay =>
      obtain ⟨phase, hp⟩ := State.elapse_xfer h delay
      exact .inr ⟨x, delay, _, rfl, hd, hp, by simp [State.onTransfer, h, State.endGuard, hd, hp]⟩

/-- CALL_ECHO_END does nothing, or lets the call end and judges its echo. -/
theorem State.endCall_cases (s : State) (heard : List BitTime) :
    s.onTransfer (fun s => s.endCall heard) = s ∨
      ∃ x n y h0 h1 payload judged, s.xfer = some x ∧ (s.elapse n).xfer = some y ∧
        s.onTransfer (fun s => s.endCall heard) = (s.elapse n).echoEnd y h0 h1 payload judged := by
  cases h : s.xfer with
  | none => exact .inl (by simp [State.onTransfer, h])
  | some x =>
    cases hp : x.phase with
    | sending elapsed h0 h1 length payload =>
      have hq := State.elapse_sending h hp (s.bitTimes (frameBits length) - elapsed)
      exact .inr ⟨x, _, _, h0, h1, _, _, rfl, hq, by simp [State.onTransfer, h, State.endCall, hp, hq, State.judgeEcho]; rfl⟩
    | gap => exact .inl (by simp [State.onTransfer, h, State.endCall, hp])
    | occupancy left lapsed => exact .inl (by simp [State.onTransfer, h, State.endCall, hp])
    | window left => exact .inl (by simp [State.onTransfer, h, State.endCall, hp])
    | receiving a b c d => exact .inl (by simp [State.onTransfer, h, State.endCall, hp])

/-- ANSWER_WINDOW_CLOSE does nothing, or lets the window close and ends the attempt NO ANSWER. -/
theorem State.endWindow_cases (s : State) :
    s.onTransfer State.endWindow = s ∨
      ∃ x n y, s.xfer = some x ∧ (s.elapse n).xfer = some y ∧
        s.onTransfer State.endWindow = (s.elapse n).endAttempt y .noAnswer none := by
  cases h : s.xfer with
  | none => exact .inl (by simp [State.onTransfer, h])
  | some x =>
    cases hp : x.phase with
    | window left =>
      have hq := State.elapse_window h hp left
      exact .inr ⟨x, _, _, rfl, hq, by simp [State.onTransfer, h, State.endWindow, hp, hq, State.windowCloses]⟩
    | gap => exact .inl (by simp [State.onTransfer, h, State.endWindow, hp])
    | occupancy left lapsed => exact .inl (by simp [State.onTransfer, h, State.endWindow, hp])
    | sending a b c d e => exact .inl (by simp [State.onTransfer, h, State.endWindow, hp])
    | receiving a b c d => exact .inl (by simp [State.onTransfer, h, State.endWindow, hp])

/-- ANSWER_SYNC_DETECTED does nothing, begins the reception in an open window, or occupies the line after it. -/
theorem State.detectSync_cases (s : State) (frame : AnswerFrame) :
    s.onTransfer (fun s => s.detectSync frame) = s ∨
      ∃ x, s.xfer = some x ∧
        (s.onTransfer (fun s => s.detectSync frame) = s.answerSync x frame ∨
          s.onTransfer (fun s => s.detectSync frame) = s.hearLateAnswer x frame) := by
  cases h : s.xfer with
  | none => exact .inl (by simp [State.onTransfer, h])
  | some x =>
    cases hp : x.phase with
    | window left =>
      refine .inr ⟨x, rfl, ?_⟩
      simp only [State.onTransfer, h, State.detectSync, hp]
      split
      · exact .inr rfl
      · exact .inl rfl
    | gap => exact .inl (by simp [State.onTransfer, h, State.detectSync, hp])
    | occupancy left lapsed => exact .inl (by simp [State.onTransfer, h, State.detectSync, hp])
    | sending a b c d e => exact .inl (by simp [State.onTransfer, h, State.detectSync, hp])
    | receiving a b c d => exact .inl (by simp [State.onTransfer, h, State.detectSync, hp])

/-- ANSWER_RECEIVED does nothing, or lets the reception end and classifies the answer. -/
theorem State.endReception_cases (s : State) :
    s.onTransfer State.endReception = s ∨
      ∃ x n y frame, s.xfer = some x ∧ (s.elapse n).xfer = some y ∧
        s.onTransfer State.endReception = (s.elapse n).answerEnd y frame := by
  cases h : s.xfer with
  | none => exact .inl (by simp [State.onTransfer, h])
  | some x =>
    cases hp : x.phase with
    | receiving elapsed frame page stored =>
      obtain ⟨stored', hq⟩ := State.elapse_receiving h hp (s.receptionTime frame - elapsed)
      exact .inr ⟨x, _, _, frame, rfl, hq, by simp [State.onTransfer, h, State.endReception, hp, hq, State.judgeAnswer]⟩
    | gap => exact .inl (by simp [State.onTransfer, h, State.endReception, hp])
    | occupancy left lapsed => exact .inl (by simp [State.onTransfer, h, State.endReception, hp])
    | sending a b c d e => exact .inl (by simp [State.onTransfer, h, State.endReception, hp])
    | window left => exact .inl (by simp [State.onTransfer, h, State.endReception, hp])

/-! ## Training -/

/-- TRAINING_BURST_DUE does nothing, or lets the due time come. -/
theorem State.burstFallsDue_cases (s : State) (t : TrunkId) :
    s.burstFallsDue t = s ∨
      ∃ n due, (s.trunk t).state = .training ∧ (s.trunk t).burstDue = some due ∧
        s.burstFallsDue t = (s.elapse n).setTrunk t (((s.elapse n).trunk t).burstFallsDue due) := by
  unfold State.burstFallsDue
  split
  · exact .inr ⟨_, _, by assumption, by assumption, rfl⟩
  · exact .inl rfl

/-- BURST_TRANSMIT_START does nothing, or lets the line fall quiet and sends the burst. -/
theorem State.startBurst_cases (s : State) (t : TrunkId) :
    s.startBurst t = s ∨ ∃ n, (s.trunk t).burst = .waiting ∧ s.startBurst t = (s.elapse n).sendBurst t := by
  unfold State.startBurst
  split
  · exact .inr ⟨_, by assumption, rfl⟩
  all_goals exact .inl rfl

/-- BURST_ECHO_END does nothing, or lets the burst end and judges its echo. -/
theorem State.endBurst_cases (s : State) (t : TrunkId) (heard : List BitTime) :
    s.endBurst t heard = s ∨
      ∃ left judged, (s.trunk t).burst = .sending left ∧ s.endBurst t heard = (s.elapse left).judgeBurst t judged := by
  unfold State.endBurst
  split
  · exact .inr ⟨_, _, by assumption, rfl⟩
  all_goals exact .inl rfl

/-- TRAINING_TIMER_EXPIRY does nothing, or lets the timer run out and fails the interface. -/
theorem State.trainingExpires_cases (s : State) (t : TrunkId) :
    s.trainingExpires t = s ∨
      ∃ left, (s.trunk t).state = .training ∧ (s.trunk t).timer = some left ∧
        s.trainingExpires t = (s.elapse left).failTraining t := by
  unfold State.trainingExpires
  split
  · exact .inr ⟨_, by assumption, by assumption, rfl⟩
  · exact .inl rfl

/-! ## Commands as they are taken (R173) -/

/-- A write to COMMAND is not taken, is refused with COMMAND OVERRUN, or is taken and acted on. -/
theorem State.takeCommand_cases (s : State) (code : Word) (act : State → State) :
    s.takeCommand code act = s ∨ s.takeCommand code act = s.hostError .commandOverrun commandAddress ∨
      (s.port.resetAsserted = false ∧ s.cmd.held = none ∧
        s.takeCommand code act = act { s with cmd := { s.cmd with code, result := .none, detail := 0 } }) := by
  unfold State.takeCommand
  split
  · exact .inl rfl
  · rename_i hr
    split
    · exact .inr (.inl rfl)
    · rename_i hh
      exact .inr (.inr ⟨by simpa using hr, by simpa using hh, rfl⟩)

/-- A command that finds the unit READY is acted on. -/
theorem State.takeCommand_ready {s : State} (code : Word) (act : State → State) (hr : s.port.resetAsserted = false)
    (hh : s.cmd.held = none) :
    s.takeCommand code act = act { s with cmd := { s.cmd with code, result := .none, detail := 0 } } := by
  simp [State.takeCommand, hr, hh]

end Sys2Proof.Machine
end

