-- ==== Sys2Proof/Laws/Step.lean ====
section
/-! SUPPORT. What a step can do, and the one induction-free principle behind every statement that each step keeps an
invariant. -/

namespace Sys2Proof.Machine

/-- A step takes the command at the front of the queue, or lets one microsecond pass. -/
theorem step_cases {s t : State} (h : step s = .next t) :
    (s.pending = [] ∧ t = s.tick) ∨ ∃ i rest, s.pending = i :: rest ∧ exec i { s with pending := rest } = .next t := by
  unfold step at h
  split at h
  · rename_i hp
    injection h with h
    exact .inl ⟨hp, h.symm⟩
  · rename_i i rest hp
    exact .inr ⟨i, rest, hp, h⟩

/-- A microsecond passes after the grants of a stretch of time, unless RESET is asserted. -/
theorem State.tick_cases (s : State) : s.tick = s ∨ s.tick = s.served.elapse 1 := by
  unfold State.tick
  split
  · exact .inl rfl
  · exact .inr rfl

/-- What does not depend on the queue, and what time, grants and every command keep, every step keeps. -/
theorem step_keeps {P : State → Prop} (hqueue : ∀ s l, P s → P { s with pending := l }) (hserved : ∀ s, P s → P s.served)
    (htime : ∀ s n, P s → P (s.elapse n)) (hexec : ∀ c s t, P s → exec c s = .next t → P t) {s t : State} (h : P s)
    (e : step s = .next t) : P t := by
  rcases step_cases e with ⟨_, rfl⟩ | ⟨i, rest, _, e⟩
  · rcases s.tick_cases with ht | ht <;> rw [ht]
    · exact h
    · exact htime _ _ (hserved _ h)
  · exact hexec _ _ _ (hqueue _ _ h) e

end Sys2Proof.Machine
end

