-- ==== Sys2Proof/Laws/Trunks.lean ====
section
/-! SUPPORT. The trunk interfaces: every operation on one keeps its timer, its bursts and its counts in step with its
state (R131, R136, R137). -/

namespace Sys2Proof.Machine

open Safety

/-! ## One interface -/

/-- An interface whose gap and quiet alone differ. -/
theorem Trunk.inv_congr {t u : Trunk} (h : TrunkInv t) (hs : u.state = t.state) (ht : u.timer.isSome = t.timer.isSome)
    (hd : u.burstDue.isSome = t.burstDue.isSome) (hb : u.burst = .none ∨ t.burst ≠ .none) (hn : u.training = t.training) :
    TrunkInv u where
  timerInTraining := by rw [hs, ht]; exact h.timerInTraining
  burstDueInTraining := by rw [hs, hd]; exact h.burstDueInTraining
  burstInTraining := by
    intro hu
    rw [hs]
    rcases hb with hb | hb
    · exact absurd hb hu
    · exact h.burstInTraining hb
  trainingAtMost := by rw [hn]; exact h.trainingAtMost
  readyIsTrained := by rw [hs, hn]; exact h.readyIsTrained

/-- Time keeps the relations of an interface. -/
theorem Trunk.elapse_inv {t : Trunk} (n : Nat) (h : TrunkInv t) : TrunkInv (t.elapse n) := by
  refine Trunk.inv_congr h rfl (by simp [Trunk.elapse]) rfl ?_ rfl
  cases hb : t.burst with
  | none => exact .inl (by simp [Trunk.elapse, hb])
  | waiting => exact .inr (by simp)
  | sending left => exact .inr (by simp)

/-- An echo matches exactly where every bit time of the frame was heard as it was sent (R58). -/
theorem echoMatches_iff {sent heard : List BitTime} :
    echoMatches sent heard = true ↔ ∀ i < sent.length, heard[i]? = sent[i]? := by
  unfold echoMatches
  rw [List.isPrefixOf_iff_prefix, List.prefix_iff_getElem?]
  exact ⟨fun h i hi => by rw [h i hi]; simp [hi], fun h i hi => by rw [h i hi]; simp [hi]⟩

/-- Activity keeps them. -/
theorem State.hear_inv {s : State} {t : Trunk} (a : Activity) (h : TrunkInv t) : TrunkInv (s.hear t a) := by
  cases a <;> exact Trunk.inv_congr h rfl rfl rfl (Decidable.em _) rfl

/-- A cut keeps them. -/
theorem Trunk.cutLine_inv {t : Trunk} (h : TrunkInv t) : TrunkInv t.cutLine :=
  Trunk.inv_congr h rfl rfl rfl (Decidable.em _) rfl

/-- Another talker's frame keeps them. -/
theorem Trunk.hearFrame_inv {t : Trunk} (d n : Nat) (h : TrunkInv t) : TrunkInv (t.hearFrame d n) :=
  Trunk.inv_congr h rfl rfl rfl (Decidable.em _) rfl

/-- The part's own frame keeps them. -/
theorem Trunk.transmit_inv {t : Trunk} (d : Nat) (h : TrunkInv t) : TrunkInv (t.transmit d) :=
  Trunk.inv_congr h rfl rfl rfl (Decidable.em _) rfl

/-- Dropping a burst changes neither the state nor the counts nor the timer. -/
theorem Trunk.dropBurst_frame (t : Trunk) :
    t.dropBurst.state = t.state ∧ t.dropBurst.faults = t.faults ∧ t.dropBurst.training = t.training ∧
    t.dropBurst.timer = t.timer ∧ t.dropBurst.burstDue = t.burstDue ∧ t.dropBurst.burst = .none ∧
    t.dropBurst.lastFrame = t.lastFrame := by
  unfold Trunk.dropBurst
  split
  · exact ⟨rfl, rfl, rfl, rfl, rfl, rfl, rfl⟩
  · exact ⟨rfl, rfl, rfl, rfl, rfl, rfl, rfl⟩
  · rename_i h
    exact ⟨rfl, rfl, rfl, rfl, rfl, h, rfl⟩

/-- An interface that leaves for OFF or FAILED has neither timer nor burst (R134, R138, R139). -/
theorem Trunk.leave_inv {t : Trunk} {new : TrunkState} (h : t.training ≤ 4) (h1 : new ≠ .training)
    (h2 : new ≠ .ready) : TrunkInv (t.leave new) where
  timerInTraining := ⟨fun e => absurd e h1, fun e => absurd e (by simp [Trunk.leave])⟩
  burstDueInTraining := ⟨fun e => absurd e h1, fun e => absurd e (by simp [Trunk.leave])⟩
  burstInTraining := fun e => absurd t.dropBurst_frame.2.2.2.2.2.1 e
  trainingAtMost := by
    show t.dropBurst.training ≤ 4
    rw [t.dropBurst_frame.2.2.1]
    exact h
  readyIsTrained := fun e => absurd e h2

/-- An interface that enters TRAINING (R133). -/
theorem State.trainingStart_inv (s : State) (t : Trunk) : TrunkInv (s.trainingStart t) where
  timerInTraining := ⟨fun _ => rfl, fun _ => rfl⟩
  burstDueInTraining := ⟨fun _ => rfl, fun _ => rfl⟩
  burstInTraining := fun _ => rfl
  trainingAtMost := Nat.zero_le _
  readyIsTrained := fun e => absurd e (by simp [State.trainingStart])

/-! ## Both interfaces -/

/-- The relations of a named interface. -/
theorem State.trunk_inv {s : State} (h : TrunksInv s) (t : TrunkId) : TrunkInv (s.trunk t) := by
  cases t
  · exact h.a
  · exact h.b

/-- States with the same interfaces. -/
theorem State.trunks_inv_congr {s u : State} (h : TrunksInv s) (ha : u.trunkA = s.trunkA) (hb : u.trunkB = s.trunkB) :
    TrunksInv u := ⟨ha ▸ h.a, hb ▸ h.b⟩

/-- An interface replaced by one that meets the relations. -/
theorem State.setTrunk_inv {s : State} (h : TrunksInv s) (t : TrunkId) {x : Trunk} (hx : TrunkInv x) :
    TrunksInv (s.setTrunk t x) := by
  cases t
  · exact ⟨hx, h.b⟩
  · exact ⟨h.a, hx⟩

/-- Time. -/
theorem State.elapse_trunks {s : State} (n : Nat) (h : TrunksInv s) : TrunksInv (s.elapse n) := by
  refine ⟨?_, ?_⟩
  · show TrunkInv ((s.elapseAttempt n).trunkA.elapse n)
    rw [(s.elapseAttempt_frame n).2.2.2.2.2.2.2.2.1]
    exact Trunk.elapse_inv n h.a
  · show TrunkInv ((s.elapseAttempt n).trunkB.elapse n)
    rw [(s.elapseAttempt_frame n).2.2.2.2.2.2.2.2.2.1]
    exact Trunk.elapse_inv n h.b

/-- A trunk command takes effect (R133, R134). -/
theorem State.trunkEffect_trunks {s : State} (c : TrunkCommand) (t : TrunkId) (h : TrunksInv s) :
    TrunksInv (s.trunkEffect c t) := by
  have htrain := State.setTrunk_inv h t (s.trainingStart_inv (s.trunk t))
  have hoff := State.setTrunk_inv h t
    (Trunk.leave_inv (new := .off) (State.trunk_inv h t).trainingAtMost (by simp) (by simp))
  unfold State.trunkEffect State.trainEffect State.offEffect
  repeat' (first | split | (dsimp only; split))
  · exact State.trunks_inv_congr htrain (by simp) (by simp)
  · exact State.trunks_inv_congr htrain (by simp) (by simp)
  · exact State.trunks_inv_congr h (by simp) (by simp)
  · exact State.trunks_inv_congr hoff (by simp) (by simp)

/-- A trunk command is taken (R135). -/
theorem State.trunkCommand_trunks {s : State} (c : TrunkCommand) (h : TrunksInv s) : TrunksInv (s.trunkCommand c) := by
  unfold State.trunkCommand
  repeat' split
  · exact State.trunks_inv_congr h (by simp) (by simp)
  · exact State.trunks_inv_congr h (by simp) (by simp)
  · exact State.trunkEffect_trunks c _ h

/-- A held trunk command takes effect (R135). -/
theorem State.releaseHeldTrunk_trunks {s : State} (t : TrunkId) (h : TrunksInv s) : TrunksInv (s.releaseHeldTrunk t) := by
  unfold State.releaseHeldTrunk
  repeat' split
  all_goals first | exact h | exact State.trunkEffect_trunks _ _ h

/-- The report of an attempt to its trunk (R139). -/
theorem State.lineReport_trunks {s : State} (x : Transfer) (o : OutcomeCode) (h : TrunksInv s) :
    TrunksInv (s.lineReport x o) := by
  have ht := State.trunk_inv h x.trunk
  unfold State.lineReport
  repeat' (first | split | (dsimp only; split))
  · refine State.trunks_inv_congr (State.setTrunk_inv h x.trunk (Trunk.leave_inv (new := .failed)
      (t := { s.trunk x.trunk with faults := (s.trunk x.trunk).faults + 1 }) ht.trainingAtMost (by simp) (by simp)))
      (by simp) (by simp)
  · exact State.setTrunk_inv h x.trunk (Trunk.inv_congr ht rfl rfl rfl (Decidable.em _) rfl)
  · exact State.setTrunk_inv h x.trunk (Trunk.inv_congr ht rfl rfl rfl (Decidable.em _) rfl)

/-- The reports of an attempt (R64, R65). -/
theorem State.attemptReports_trunks {s : State} (x : Transfer) (o : OutcomeCode) (c : Option (BitVec 8))
    (h : TrunksInv s) : TrunksInv (s.attemptReports x o c) := by
  have hr := State.lineReport_trunks x o h
  unfold State.attemptReports
  split
  · exact State.trunks_inv_congr hr (by simp) (by simp)
  · exact hr

/-- The end of an attempt (R64 to R66, R135). -/
theorem State.endAttempt_trunks {s : State} (x : Transfer) (o : OutcomeCode) (c : Option (BitVec 8)) (h : TrunksInv s) :
    TrunksInv (s.endAttempt x o c) := by
  unfold State.endAttempt
  exact State.trunks_inv_congr
    (State.releaseHeldTrunk_trunks x.trunk (State.attemptReports_trunks (x.withOutcome o) o c h)) (by simp) (by simp)

/-- A call goes out (R57). -/
theorem State.sendCall_trunks {s : State} (x : Transfer) (h : TrunksInv s) : TrunksInv (s.sendCall x) :=
  State.trunks_inv_congr (State.setTrunk_inv h x.trunk (Trunk.transmit_inv _ (State.trunk_inv h x.trunk))) rfl rfl

/-- The end of an echo (R58). -/
theorem State.echoEnd_trunks {s : State} (x : Transfer) (u v : Word) (l : List Word) (e : Echo) (h : TrunksInv s) :
    TrunksInv (s.echoEnd x u v l e) := by
  have hs := State.setTrunk_inv h x.trunk
    (Trunk.inv_congr (u := { s.trunk x.trunk with lastFrame := frameOnLine (frameWords u v l) }) (State.trunk_inv h x.trunk) rfl rfl
      rfl (Decidable.em _) rfl)
  unfold State.echoEnd
  dsimp only
  repeat' split
  all_goals first
    | exact State.endAttempt_trunks _ _ _ hs
    | exact State.trunks_inv_congr hs rfl rfl

/-- An answer begins (R61). -/
theorem State.answerSync_trunks {s : State} (x : Transfer) (f : AnswerFrame) (h : TrunksInv s) :
    TrunksInv (s.answerSync x f) := by
  have hs := State.setTrunk_inv h x.trunk
    (Trunk.hearFrame_inv (s.receptionTime f) (s.answerTime f) (State.trunk_inv h x.trunk))
  unfold State.answerSync
  dsimp only
  repeat' split
  all_goals exact State.trunks_inv_congr hs (by simp) (by simp)

/-- An answer begins after its window (R59). -/
theorem State.hearLateAnswer_trunks {s : State} (x : Transfer) (f : AnswerFrame) (h : TrunksInv s) :
    TrunksInv (s.hearLateAnswer x f) :=
  State.setTrunk_inv h x.trunk (Trunk.hearFrame_inv _ _ (State.trunk_inv h x.trunk))

/-- The guard runs out (R56). -/
theorem State.guardRunsOut_trunks {s : State} (x : Transfer) (h : TrunksInv s) : TrunksInv (s.guardRunsOut x) :=
  State.endAttempt_trunks _ _ _ h

/-- Activity on a line (R132). -/
theorem State.lineActivity_trunks {s : State} (t : TrunkId) (a : Activity) (h : TrunksInv s) :
    TrunksInv (s.lineActivity t a) :=
  State.setTrunk_inv h t (Trunk.inv_congr (State.hear_inv a (State.trunk_inv h t)) rfl rfl rfl (Decidable.em _) rfl)

/-- An attempt is cut (R140). -/
theorem State.cutAttempt_trunks {s : State} (x : Transfer) (h : TrunksInv s) : TrunksInv (s.cutAttempt x) := by
  unfold State.cutAttempt
  split
  · exact State.setTrunk_inv h x.trunk (Trunk.cutLine_inv (State.trunk_inv h x.trunk))
  · exact h

/-- A burst falls due (R136). -/
theorem Trunk.burstFallsDue_inv {t : Trunk} (due : TimeTag) (h : TrunkInv t) (hs : t.state = .training) :
    TrunkInv (t.burstFallsDue due) where
  timerInTraining := h.timerInTraining
  burstDueInTraining := ⟨fun _ => rfl, fun _ => hs⟩
  burstInTraining := fun _ => hs
  trainingAtMost := h.trainingAtMost
  readyIsTrained := h.readyIsTrained

/-- A burst goes out (R136). -/
theorem State.sendBurst_trunks {s : State} (t : TrunkId) (h : TrunksInv s) (hb : (s.trunk t).burst ≠ .none) :
    TrunksInv (s.sendBurst t) :=
  State.setTrunk_inv h t (Trunk.inv_congr (State.trunk_inv h t) rfl rfl rfl (.inr hb) rfl)

/-- The end of a burst's echo (R137). -/
theorem State.judgeBurst_trunks {s : State} (t : TrunkId) (e : Echo) (h : TrunksInv s) (hb : (s.trunk t).burst ≠ .none) :
    TrunksInv (s.judgeBurst t e) := by
  have ht := State.trunk_inv h t
  have hs : (s.trunk t).state = .training := ht.burstInTraining hb
  unfold State.judgeBurst
  dsimp only
  repeat' split
  · exact State.setTrunk_inv h t ⟨ht.timerInTraining, ht.burstDueInTraining, fun e => absurd rfl e, Nat.zero_le _,
      fun e => absurd (hs.symm.trans e) (by simp)⟩
  · refine State.trunks_inv_congr (State.setTrunk_inv h t (x := (s.trunk t).burstSent.trained) ?_) (by simp) (by simp)
    exact ⟨⟨fun e => absurd e (by simp [Trunk.trained]), fun e => absurd e (by simp [Trunk.trained])⟩,
      ⟨fun e => absurd e (by simp [Trunk.trained]), fun e => absurd e (by simp [Trunk.trained])⟩,
      fun e => absurd rfl e, Nat.le_refl 4, fun _ => rfl⟩
  · rename_i hlt
    refine State.setTrunk_inv h t ⟨ht.timerInTraining, ht.burstDueInTraining, fun e => absurd rfl e, ?_,
      fun e => absurd (hs.symm.trans e) (by simp)⟩
    have : (s.trunk t).burstSent.training + 1 < 4 := Nat.lt_of_not_le hlt
    dsimp only
    omega

/-- The training timer runs out (R138). -/
theorem State.failTraining_trunks {s : State} (t : TrunkId) (h : TrunksInv s) : TrunksInv (s.failTraining t) := by
  unfold State.failTraining
  exact State.trunks_inv_congr
    (State.setTrunk_inv h t (Trunk.leave_inv (new := .failed) (State.trunk_inv h t).trainingAtMost (by simp)
      (by simp))) (by simp) (by simp)

/-- Time keeps a burst that is on the line or waiting. -/
theorem State.elapse_burst {s : State} (n : Nat) (t : TrunkId) (hb : (s.trunk t).burst ≠ .none) :
    ((s.elapse n).trunk t).burst ≠ .none := by
  have key : ∀ u : Trunk, u.burst ≠ .none → (u.elapse n).burst ≠ .none := by
    intro u hu
    unfold Trunk.elapse
    split <;> simp_all
  cases t
  · show ((s.elapseAttempt n).trunkA.elapse n).burst ≠ .none
    rw [(s.elapseAttempt_frame n).2.2.2.2.2.2.2.2.1]
    exact key _ hb
  · show ((s.elapseAttempt n).trunkB.elapse n).burst ≠ .none
    rw [(s.elapseAttempt_frame n).2.2.2.2.2.2.2.2.2.1]
    exact key _ hb

/-- Time keeps the state of an interface. -/
theorem State.elapse_trunk_state (s : State) (n : Nat) (t : TrunkId) :
    ((s.elapse n).trunk t).state = (s.trunk t).state := by
  cases t
  · show ((s.elapseAttempt n).trunkA.elapse n).state = _
    rw [(s.elapseAttempt_frame n).2.2.2.2.2.2.2.2.1]
    rfl
  · show ((s.elapseAttempt n).trunkB.elapse n).state = _
    rw [(s.elapseAttempt_frame n).2.2.2.2.2.2.2.2.2.1]
    rfl

/-- The slot that ABORT ends (R29, R140). -/
theorem State.abortSlot_trunks {s : State} (h : TrunksInv s) : TrunksInv s.abortSlot := by
  unfold State.abortSlot
  repeat' split
  · rename_i x hx
    exact State.trunks_inv_congr (State.cutAttempt_trunks x h) (by simp) (by simp)
  · exact State.trunks_inv_congr h (by simp) (by simp)
  · exact h

/-- ABORT (R29, R140). -/
theorem State.abort_trunks {s : State} (h : TrunksInv s) : TrunksInv s.abort := by
  have hslot := State.abortSlot_trunks h
  unfold State.abort
  repeat' (first | split | (dsimp only; split))
  all_goals first
    | (refine State.trunks_inv_congr hslot ?_ ?_ <;> simp <;> done)
    | (refine State.trunks_inv_congr h ?_ ?_ <;> simp <;> done)

/-- ENGINE RESET (R46, R140). -/
theorem State.engineReset_trunks {s : State} (h : TrunksInv s) : TrunksInv s.engineReset := by
  unfold State.engineReset State.resetRunTime
  split
  · exact State.trunks_inv_congr (State.cutAttempt_trunks _ h) rfl rfl
  · exact State.trunks_inv_congr h rfl rfl

/-- Every command of Table 11-5. -/
theorem State.act_trunks {s : State} (c : Word) (h : TrunksInv s) : TrunksInv (s.act c) := by
  unfold State.act
  split
  all_goals first
    | exact State.abort_trunks h
    | exact State.engineReset_trunks h
    | exact State.trunkCommand_trunks _ h
    | (refine State.trunks_inv_congr h ?_ ?_ <;> simp <;> done)

/-- A write to COMMAND. -/
theorem State.takeCommand_trunks {s : State} (c : Word) {act : State → State} (h : TrunksInv s)
    (hact : ∀ u, TrunksInv u → TrunksInv (act u)) : TrunksInv (s.takeCommand c act) := by
  rcases s.takeCommand_cases c act with e | e | ⟨_, _, e⟩ <;> rw [e]
  · exact h
  · exact State.trunks_inv_congr h (by simp) (by simp)
  · exact hact _ (State.trunks_inv_congr h rfl rfl)

/-- A host access: only a write to COMMAND reaches the trunks. -/
theorem State.hostAccess_trunks {s : State} (a : HostAddress) (x : Access) (h : TrunksInv s) :
    TrunksInv (s.hostAccess a x) := by
  unfold State.hostAccess State.registerAccess State.writeRegister State.judge
  repeat' split
  all_goals first
    | exact State.takeCommand_trunks _ h (fun u hu => State.act_trunks _ hu)
    | (refine State.trunks_inv_congr h ?_ ?_ <;> simp <;> done)

/-- Pin reset (R131). -/
theorem State.pinReset_trunks (s : State) : TrunksInv s.pinReset := by
  have key : ∀ t, TrunkInv (s.pinResetTrunk t) := fun t =>
    ⟨by simp [State.pinResetTrunk, Trunk.reset], by simp [State.pinResetTrunk, Trunk.reset], fun e => absurd rfl e,
      Nat.zero_le _, fun e => absurd e (by simp [State.pinResetTrunk, Trunk.reset])⟩
  exact ⟨key _, key _⟩

end Sys2Proof.Machine
end

