-- ==== Sys2Proof/Laws/Attempts.lean ====
section
/-! SUPPORT. The trunk of an attempt: every attempt begins on a READY trunk, and nothing but its own report takes that
trunk from READY while it is in flight (R52, R53, R135, R139). -/

namespace Sys2Proof.Machine

open Safety

/-- The trunk of the attempt in flight, if there is one, is READY. -/
def OnReady (s : State) : Prop := ∀ x, s.xfer = some x → s.ready x.trunk = true

/-- Without a transfer there is nothing to show. -/
theorem onReady_none {s : State} (h : s.xfer = none) : OnReady s := fun x hx => absurd (h.symm.trans hx) (by simp)

/-- States with the same transfer and the same states of their trunks. -/
theorem OnReady.congr {s u : State} (h : OnReady s) (hx : u.xfer = s.xfer)
    (ht : ∀ t, (u.trunk t).state = (s.trunk t).state) : OnReady u := by
  intro x hu
  have := h x (hx ▸ hu)
  unfold State.ready at *
  rw [ht]
  exact this

/-- States with the same transfer and the same trunks. -/
theorem OnReady.congr_trunks {s u : State} (h : OnReady s) (hx : u.xfer = s.xfer) (ha : u.trunkA = s.trunkA)
    (hb : u.trunkB = s.trunkB) : OnReady u :=
  h.congr hx (fun t => by rw [State.trunk_congr ha hb])

/-! ## The choice of trunk -/

/-- A further attempt goes out on a READY trunk (R53). -/
theorem State.nextTrunk_ready {s : State} {policy : RetryPolicy} {previous t : TrunkId}
    (h : s.nextTrunk policy previous = some t) : s.ready t = true := by
  unfold State.nextTrunk at h
  cases policy <;> dsimp only at h <;> (repeat' split at h) <;> simp_all

/-- A first attempt goes out on a READY trunk, if there is one (R52). -/
theorem State.firstTrunk_ready {s : State} (preferred : TrunkId) (h : s.anyReady = true) :
    s.ready (s.firstTrunk preferred) = true := by
  unfold State.firstTrunk State.anyReady at *
  cases preferred <;> split <;> simp_all [otherTrunk]

/-- An attempt begun on a READY trunk. -/
theorem State.beginAttempt_onReady {s : State} (x : Transfer) {t : TrunkId} (h : s.ready t = true) :
    OnReady (s.beginAttempt x t) := by
  intro y hy
  have hy' : y.trunk = t := by
    simp only [State.beginAttempt, Option.some.injEq] at hy
    rw [← hy]
  rw [hy']
  exact h

/-! ## The end of an attempt -/

/-- A transfer that ends leaves none in progress (R49, R71). -/
@[simp] theorem State.endTransfer_xfer (s : State) (x : Transfer) (o : OutcomeCode) : (s.endTransfer x o).xfer = none := by
  unfold State.endTransfer
  simp only [State.endSlot_frame]
  split <;> simp [State.transferReports]

/-- The decision after an attempt begins one on a READY trunk, or ends the transfer (R66, R69, R70). -/
theorem State.afterAttempt_onReady (s : State) (x : Transfer) (o : OutcomeCode) : OnReady (s.afterAttempt x o) := by
  unfold State.afterAttempt State.retryOrEnd State.turnOrEnd
  repeat' split
  all_goals first
    | exact onReady_none (State.endTransfer_xfer _ _ _)
    | exact State.beginAttempt_onReady _ (State.nextTrunk_ready (by assumption))
    | (rename_i h; exact State.beginAttempt_onReady _ h.2.1)

/-- The end of an attempt, whatever it reports. -/
theorem State.endAttempt_onReady (s : State) (x : Transfer) (o : OutcomeCode) (c : Option (BitVec 8)) :
    OnReady (s.endAttempt x o c) := State.afterAttempt_onReady _ _ _

/-! ## Hand-over -/

/-- The need of a trunk, met with work that hands a transfer over (R44, R45). -/
theorem State.needTrunk_onReady {s : State} {work : State → State} (h : OnReady s)
    (hwork : s.anyReady = true → OnReady (work s)) : OnReady (s.needTrunk work) := by
  unfold State.needTrunk
  split
  · exact hwork (by assumption)
  · split
    · exact h.congr_trunks (by simp) (by simp) (by simp)
    · exact h.congr_trunks (by simp) (by simp) (by simp)

/-- The hand-overs of R50. -/
theorem State.handOverPoint_onReady {s : State} (d : Option (BitVec 8)) (p : BitVec 8) (r : PointRecord) (n : Nat)
    (q : RetryPolicy) (h : s.anyReady = true) : OnReady (s.handOverPoint d p r n q) :=
  State.beginAttempt_onReady _ (State.firstTrunk_ready (s := s) _ h)

/-- A probe. -/
theorem State.handOverProbe_onReady {s : State} (p : BitVec 8) (r : PointRecord) (n : Nat) (q : RetryPolicy)
    (h : s.anyReady = true) : OnReady (s.handOverProbe p r n q) :=
  State.beginAttempt_onReady _ (State.firstTrunk_ready (s := s) _ h)

/-- A broadcast. -/
theorem State.handOverBroadcast_onReady {s : State} (d : Option (BitVec 8)) (p : BitVec 8) (r : PointRecord)
    (h : s.anyReady = true) : OnReady (s.handOverBroadcast d p r) :=
  State.beginAttempt_onReady _ (State.firstTrunk_ready (s := s) _ h)

/-- A SYNC. -/
theorem State.handOverSync_onReady {s : State} (h : s.anyReady = true) : OnReady s.handOverSync :=
  State.beginAttempt_onReady _ (State.firstTrunk_ready (s := s) _ h)

/-- The reads of a slot start have ended (R40). -/
theorem State.slotChecked_onReady {s : State} (elapsed : Nat) (h : OnReady s) : OnReady (s.slotChecked elapsed) := by
  have he : OnReady s.endEngineRead := h.congr_trunks rfl rfl rfl
  unfold State.slotChecked
  split
  · exact he.congr_trunks (by simp) (by simp) (by simp)
  · split
    · unfold State.slotWork
      split
      · unfold State.transferSlot
        repeat' split
        all_goals first
          | (refine he.congr_trunks ?_ ?_ ?_ <;> simp <;> done)
          | exact State.needTrunk_onReady he (State.handOverBroadcast_onReady _ _ _)
          | exact State.needTrunk_onReady he (State.handOverProbe_onReady _ _ _ _)
          | exact State.needTrunk_onReady he (State.handOverPoint_onReady _ _ _ _ _)
      · exact he.congr_trunks (by simp) (by simp) (by simp)
      · unfold State.openSlot
        split
        · exact State.needTrunk_onReady (he.congr_trunks (by simp) (by simp) (by simp)) (fun _ => he.congr_trunks (by simp) (by simp) (by simp))
        · exact he.congr_trunks (by simp) (by simp) (by simp)
      · exact State.needTrunk_onReady he State.handOverSync_onReady
      · exact he.congr_trunks (by simp) (by simp) (by simp)
    · exact he.congr_trunks (by simp) (by simp) (by simp)

/-- The reads of a slot start end (R21, R40). -/
theorem State.slotReadDone_onReady {s : State} (elapsed : Nat) (h : OnReady s) : OnReady (s.slotReadDone elapsed) :=
  State.slotChecked_onReady elapsed (h.congr_trunks (by simp) (by simp) (by simp))

/-- The read of a taken demand's record has ended (R123, R124). -/
theorem State.demandChecked_onReady {s : State} (retries : Nat) (h : OnReady s) :
    OnReady (s.demandChecked retries) := by
  have he : OnReady s.endEngineRead := h.congr_trunks rfl rfl rfl
  unfold State.demandChecked
  repeat' split
  all_goals first
    | (refine he.congr_trunks ?_ ?_ ?_ <;> simp <;> done)
    | skip
  unfold State.needTrunkForDemand
  split
  · unfold State.handOverDemand
    split
    · exact State.handOverBroadcast_onReady _ _ _ (by assumption)
    · exact State.handOverPoint_onReady _ _ _ _ _ (by assumption)
  · exact State.needTrunk_onReady (he.congr_trunks (by simp) (by simp) (by simp)) (fun _ => he.congr_trunks (by simp) (by simp) (by simp))

/-- The read of a taken demand's record ends (R123, R124). -/
theorem State.demandReadDone_onReady {s : State} (retries : Nat) (h : OnReady s) :
    OnReady (s.demandReadDone retries) :=
  State.demandChecked_onReady retries (h.congr_trunks (by simp) (by simp) (by simp))

/-! ## Trunk commands and training -/

/-- Replacing a trunk that carries no attempt. -/
theorem OnReady.setTrunk_other {s : State} (h : OnReady s) {t : TrunkId} (x : Trunk)
    (ht : ∀ y, s.xfer = some y → y.trunk ≠ t) : OnReady (s.setTrunk t x) := by
  intro y hy
  have hy' : s.xfer = some y := hy
  have hne := ht y hy'
  have := h y hy'
  unfold State.ready at *
  have e : (s.setTrunk t x).trunk y.trunk = s.trunk y.trunk := by
    cases t <;> cases hyt : y.trunk <;> first | exact absurd hyt hne | rfl
  rw [e]
  exact this

/-- Replacing a trunk by one in the same state. -/
theorem OnReady.setTrunk_same {s : State} (h : OnReady s) (t : TrunkId) {x : Trunk} (hx : x.state = (s.trunk t).state) :
    OnReady (s.setTrunk t x) := by
  refine h.congr rfl (fun u => ?_)
  cases t <;> cases u <;> first | exact hx | rfl

/-- A trunk command never acts on the trunk of an attempt in flight: it is held (R135). -/
theorem State.trunkCommand_onReady {s : State} (c : TrunkCommand) (h : OnReady s) : OnReady (s.trunkCommand c) := by
  unfold State.trunkCommand
  split
  · exact h.congr_trunks (by simp) (by simp) (by simp)
  · rename_i t _
    split
    · exact h.congr_trunks (by simp) (by simp) (by simp)
    · rename_i hoff
      have hne : ∀ y, s.xfer = some y → y.trunk ≠ t := by
        intro y hy he
        apply hoff
        simp [State.attemptOn, hy, he]
      have htrain := h.setTrunk_other (s.trainingStart (s.trunk t)) hne
      have hleave := h.setTrunk_other ((s.trunk t).leave .off) hne
      unfold State.trunkEffect State.trainEffect State.offEffect
      repeat' (first | split | (dsimp only; split))
      · exact htrain.congr_trunks (by simp) (by simp) (by simp)
      · exact htrain.congr_trunks (by simp) (by simp) (by simp)
      · exact h.congr_trunks (by simp) (by simp) (by simp)
      · exact hleave.congr_trunks (by simp) (by simp) (by simp)

/-- The attempt in flight is not on a TRAINING trunk. -/
theorem OnReady.not_training {s : State} (h : OnReady s) {t : TrunkId} (ht : (s.trunk t).state = .training) :
    ∀ y, s.xfer = some y → y.trunk ≠ t := by
  intro y hy he
  have := h y hy
  unfold State.ready at this
  rw [he, ht] at this
  exact absurd this (by decide)

/-- Time. -/
theorem State.elapse_onReady {s : State} (n : Nat) (h : OnReady s) : OnReady (s.elapse n) := by
  intro y hy
  cases hx : s.xfer with
  | none => rw [State.elapse_xfer_none hx] at hy; exact absurd hy (by simp)
  | some x =>
    obtain ⟨phase, hp⟩ := State.elapse_xfer hx n
    rw [hp] at hy
    have : y.trunk = x.trunk := by
      injection hy with hy
      rw [← hy]
    have hr := h x hx
    unfold State.ready at *
    rw [this, State.elapse_trunk_state]
    exact hr

end Sys2Proof.Machine
end

