-- ==== Sys2Proof/Laws/Engine.lean ====
section
/-! SUPPORT. The schedule engine: every operation on rounds, slots and transfers keeps the relations of R23, R28, R31
and R49 between the engine state, the slot in progress and the transfer. -/

namespace Sys2Proof.Machine

open Safety

/-! ## The two kinds of engine state -/

/-- The engine walks its plan: RUNNING without a stop point, or DRAINING with one, with a plan and without a halt
cause. -/
structure Walks (s : State) : Prop where
  state : (s.eng.state = .running ∧ s.eng.stop = .none) ∨ (s.eng.state = .draining ∧ s.eng.stop ≠ .none)
  noHalt : s.eng.halt = .none
  plan : s.eng.active.isSome = true

/-- The engine rests: IDLE without a halt cause, or HALTED with one, with nothing in progress. -/
structure Rests (s : State) : Prop where
  state : (s.eng.state = .idle ∧ s.eng.halt = .none) ∨ (s.eng.state = .halted ∧ s.eng.halt ≠ .none)
  noStop : s.eng.stop = .none
  noSlot : s.eng.phase = .none
  timer : s.eng.timer = .stopped
  noPending : s.eng.pending = none
  noTransfer : s.xfer = none

/-- States with the same engine. -/
theorem Walks.congr {s u : State} (h : Walks s) (e : u.eng = s.eng) : Walks u := by
  constructor
  · rw [e]; exact h.state
  · rw [e]; exact h.noHalt
  · rw [e]; exact h.plan

/-- States with the same engine, and a transfer in both or in neither. -/
theorem engineInv_congr {s u : State} (h : EngineInv s) (e : u.eng = s.eng) (hx : u.xfer.isSome = s.xfer.isSome) :
    EngineInv u := by
  constructor
  · rw [e]; exact h.haltedHasCause
  · rw [e]; exact h.drainingHasStop
  · rw [e]; exact h.restingHasNoSlot
  · rw [e]; exact h.restingTimerStopped
  · rw [e]; exact h.restingNothingPending
  · rw [e]; exact h.runningHasPlan
  · rw [e, hx]; exact h.transferInItsSlot

/-- A walking engine with its timer loaded meets the relations. -/
theorem Walks.inv {s : State} (h : Walks s) (ht : s.eng.timer ≠ .stopped)
    (hx : s.eng.phase = .transferring ↔ s.xfer.isSome = true) : EngineInv s := by
  have hs : s.eng.state = .running ∨ s.eng.state = .draining := h.state.imp And.left And.left
  have hn : ¬(s.eng.state = .idle ∨ s.eng.state = .halted) := by
    rcases hs with e | e <;> simp [e]
  exact
    { haltedHasCause := ⟨fun e => absurd (.inr e) hn, fun e => absurd h.noHalt e⟩
      drainingHasStop := by
        rcases h.state with ⟨e, e'⟩ | ⟨e, e'⟩
        · simp [e, e']
        · simp [e, e']
      restingHasNoSlot := fun e => absurd e hn
      restingTimerStopped := ⟨fun e => absurd e hn, fun e => absurd e ht⟩
      restingNothingPending := fun e => absurd e hn
      runningHasPlan := fun _ => h.plan
      transferInItsSlot := hx }

/-- A resting engine meets the relations. -/
theorem Rests.inv {s : State} (h : Rests s) : EngineInv s := by
  have hs : s.eng.state = .idle ∨ s.eng.state = .halted := h.state.imp And.left And.left
  exact
    { haltedHasCause := by
        rcases h.state with ⟨e, e'⟩ | ⟨e, e'⟩
        · simp [e, e']
        · simp [e, e']
      drainingHasStop := by
        rcases hs with e | e <;> simp [e, h.noStop]
      restingHasNoSlot := fun _ => h.noSlot
      restingTimerStopped := ⟨fun _ => h.timer, fun _ => hs⟩
      restingNothingPending := fun _ => h.noPending
      runningHasPlan := fun e => by rcases hs with e' | e' <;> simp [e'] at e
      transferInItsSlot := by simp [h.noSlot, h.noTransfer] }

/-- The relations say that the engine walks or rests. -/
theorem EngineInv_cases {s : State} (h : EngineInv s) : (Walks s ∧ s.eng.timer ≠ .stopped) ∨ Rests s := by
  have noX : s.eng.phase = .none → s.xfer = none := by
    intro e
    cases hx : s.xfer with
    | none => rfl
    | some x => exact absurd (h.transferInItsSlot.2 (by simp [hx])) (by simp [e])
  cases hs : s.eng.state with
  | idle =>
    refine .inr ⟨.inl ⟨hs, ?_⟩, ?_, h.restingHasNoSlot (.inl hs), h.restingTimerStopped.1 (.inl hs),
      h.restingNothingPending (.inl hs), noX (h.restingHasNoSlot (.inl hs))⟩
    · exact Decidable.byContradiction fun e => absurd (h.haltedHasCause.2 e) (by simp [hs])
    · exact Decidable.byContradiction fun e => absurd (h.drainingHasStop.2 e) (by simp [hs])
  | halted =>
    refine .inr ⟨.inr ⟨hs, h.haltedHasCause.1 hs⟩, ?_, h.restingHasNoSlot (.inr hs), h.restingTimerStopped.1 (.inr hs),
      h.restingNothingPending (.inr hs), noX (h.restingHasNoSlot (.inr hs))⟩
    exact Decidable.byContradiction fun e => absurd (h.drainingHasStop.2 e) (by simp [hs])
  | running =>
    refine .inl ⟨⟨.inl ⟨hs, ?_⟩, ?_, h.runningHasPlan (.inl hs)⟩, ?_⟩
    · exact Decidable.byContradiction fun e => absurd (h.drainingHasStop.2 e) (by simp [hs])
    · exact Decidable.byContradiction fun e => absurd (h.haltedHasCause.2 e) (by simp [hs])
    · intro e
      rcases h.restingTimerStopped.2 e with e' | e' <;> simp [hs] at e'
  | draining =>
    refine .inl ⟨⟨.inr ⟨hs, h.drainingHasStop.1 hs⟩, ?_, h.runningHasPlan (.inr hs)⟩, ?_⟩
    · exact Decidable.byContradiction fun e => absurd (h.haltedHasCause.2 e) (by simp [hs])
    · intro e
      rcases h.restingTimerStopped.2 e with e' | e' <;> simp [hs] at e'

/-- An engine with a slot in progress walks. -/
theorem EngineInv_walks {s : State} (h : EngineInv s) (hp : s.eng.phase ≠ .none ∨ s.eng.timer ≠ .stopped) :
    Walks s ∧ s.eng.timer ≠ .stopped := by
  rcases EngineInv_cases h with hw | hr
  · exact hw
  · rcases hp with hp | hp
    · exact absurd hr.noSlot hp
    · exact absurd hr.timer hp

/-- A slot that has handed no transfer over has none in progress. -/
theorem EngineInv_noTransfer {s : State} (h : EngineInv s) (hp : s.eng.phase ≠ .transferring) : s.xfer = none := by
  cases hx : s.xfer with
  | none => rfl
  | some x => exact absurd (h.transferInItsSlot.2 (by simp [hx])) hp

/-! ## What the shared operations make of the engine -/

/-- A change of engine state (R31). -/
@[simp] theorem State.changeEngine_eng (s : State) (e : EngineState) (p : StopPoint) (c : Nat) :
    (s.changeEngine e p c).eng = { s.eng with state := e, stop := p } := rfl

/-- An activation (R18). -/
@[simp] theorem State.activate_eng (s : State) (g : Geometry) : (s.activate g).eng = { s.eng with active := some g } := rfl

/-- A slot begins (R40). -/
@[simp] theorem State.beginSlot_eng (s : State) (i : Nat) :
    (s.beginSlot i).eng = { s.eng with slot := i, phase := .reading 0 } := rfl

/-- A pending switch, applied, leaves none (R19). -/
theorem State.applyPending_eng (s : State) :
    (s.applyPending).eng = { s.eng with pending := none, active := s.eng.pending.or s.eng.active } := by
  unfold State.applyPending
  cases h : s.eng.pending with
  | none =>
    show s.eng = { s.eng with pending := none, active := s.eng.active }
    rw [← h]
  | some g => rfl

/-- The engine comes to rest (R28, R31). -/
theorem State.stopEngine_eng (s : State) (e : EngineState) (c : HaltCause) (k : Nat) :
    (s.stopEngine e c k).eng =
      { s.eng with
        state := e, stop := .none, halt := c, phase := .none, timer := .stopped, pending := none
        active := s.eng.pending.or s.eng.active } := by
  unfold State.stopEngine
  show ({ s.applyPending.eng with phase := _, timer := _, halt := c, state := e, stop := _ } : Engine) = _
  rw [State.applyPending_eng]

/-- An engine brought to IDLE, or to HALTED with a cause, rests. -/
theorem State.stopEngine_rests {s : State} {e : EngineState} {c : HaltCause} (k : Nat) (hx : s.xfer = none)
    (h : (e = .idle ∧ c = .none) ∨ (e = .halted ∧ c ≠ .none)) : Rests (s.stopEngine e c k) := by
  have he := s.stopEngine_eng e c k
  constructor
  · rw [he]; exact h
  · rw [he]
  · rw [he]
  · rw [he]
  · rw [he]
  · simpa using hx

/-! ## Rounds -/

/-- A slot begins in a walking engine. -/
theorem State.beginSlot_inv {s : State} (i : Nat) (h : Walks s) (ht : s.eng.timer ≠ .stopped) (hx : s.xfer = none) :
    EngineInv (s.beginSlot i) :=
  Walks.inv ⟨h.state, h.noHalt, h.plan⟩ ht (by simp [hx])

/-- A round begins in a walking engine between slots. -/
theorem State.beginRound_inv {s : State} (r : Nat) (h : Walks s) (hp : s.eng.phase ≠ .transferring) (hx : s.xfer = none) :
    EngineInv (s.beginRound r) := by
  unfold State.beginRound
  dsimp only
  have hw : Walks
      (({ s with eng := { s.eng with round := r, timer := .running ((s.eng.active.map (·.roundPeriod)).getD 0 * 10) } } :
        State).ageStations.ageDemands) :=
    Walks.congr
      (s := { s with
        eng := { s.eng with round := r, timer := .running ((s.eng.active.map (·.roundPeriod)).getD 0 * 10) } })
      ⟨h.state, h.noHalt, h.plan⟩ (by simp)
  split
  · exact hw.inv (by simp) (by simp [hx, hp])
  · exact State.beginSlot_inv _ hw (by simp) (by simp [hx])

/-- A sweep begins in a walking engine between slots. -/
theorem State.beginSweep_inv {s : State} (h : Walks s) (hp : s.eng.phase ≠ .transferring) (hx : s.xfer = none) :
    EngineInv s.beginSweep :=
  State.beginRound_inv 0 ⟨h.state, h.noHalt, h.plan⟩ hp hx

/-- A pending switch applied in a walking engine. -/
theorem State.applyPending_walks {s : State} (h : Walks s) : Walks s.applyPending := by
  have he := s.applyPending_eng
  constructor
  · rw [he]; exact h.state
  · rw [he]; exact h.noHalt
  · rw [he]
    cases hp : s.eng.pending with
    | none => simpa [hp] using h.plan
    | some g => rfl

/-- The boundary of a sweep (R38). -/
theorem State.sweepBoundary_inv {s : State} (h : Walks s) (hp : s.eng.phase ≠ .transferring) (hx : s.xfer = none) :
    EngineInv s.sweepBoundary := by
  unfold State.sweepBoundary
  dsimp only
  split
  · exact (State.stopEngine_rests _ (by simp [hx]) (.inl ⟨rfl, rfl⟩)).inv
  · refine State.beginSweep_inv ((State.applyPending_walks h).congr (by simp)) ?_ (by simp [hx])
    simp only [State.report_frame, State.applyPending_eng]
    exact hp

/-- The end of a round (R28). -/
theorem State.endRound_inv {s : State} (h : Walks s) (hp : s.eng.phase ≠ .transferring) (hx : s.xfer = none) :
    EngineInv s.endRound := by
  unfold State.endRound
  repeat' split
  · exact State.sweepBoundary_inv h hp hx
  · exact (State.stopEngine_rests _ hx (.inl ⟨rfl, rfl⟩)).inv
  · exact State.beginRound_inv _ h hp hx

/-- What follows a slot (R33 to R36, R40). -/
theorem State.afterSlot_inv {s : State} (h : Walks s) (ht : s.eng.timer ≠ .stopped) (hp : s.eng.phase ≠ .transferring)
    (hx : s.xfer = none) : EngineInv s.afterSlot := by
  unfold State.afterSlot
  repeat' split
  · exact (State.stopEngine_rests _ hx (.inr ⟨rfl, by simp⟩)).inv
  · exact State.endRound_inv h hp hx
  · exact State.beginSlot_inv _ h ht hx
  · exact State.endRound_inv h hp hx
  · exact h.inv ht (by simp [hx, hp])

/-- A slot ends (R40). -/
theorem State.endSlot_inv {s : State} (h : Walks s) (ht : s.eng.timer ≠ .stopped) (hx : s.xfer = none) :
    EngineInv s.endSlot :=
  State.afterSlot_inv ⟨h.state, h.noHalt, h.plan⟩ ht (by simp) hx

/-- A trunk need in a walking engine without a transfer (R44, R45). -/
theorem State.needTrunk_inv {s : State} {work : State → State} (h : Walks s) (ht : s.eng.timer ≠ .stopped)
    (hx : s.xfer = none) (hwork : EngineInv (work s)) : EngineInv (s.needTrunk work) := by
  unfold State.needTrunk
  repeat' split
  · exact hwork
  · have hr : s.reportNoTrunk.eng.state = s.eng.state ∧ s.reportNoTrunk.eng.stop = s.eng.stop ∧
        s.reportNoTrunk.eng.halt = s.eng.halt ∧ s.reportNoTrunk.eng.active = s.eng.active ∧
        s.reportNoTrunk.eng.timer = s.eng.timer := by
      unfold State.reportNoTrunk
      split <;> exact ⟨rfl, rfl, rfl, rfl, rfl⟩
    refine State.endSlot_inv ⟨?_, ?_, ?_⟩ ?_ (by simp [hx])
    · rw [hr.1, hr.2.1]; exact h.state
    · rw [hr.2.2.1]; exact h.noHalt
    · rw [hr.2.2.2.1]; exact h.plan
    · rw [hr.2.2.2.2]; exact ht
  · exact (State.stopEngine_rests _ hx (.inr ⟨rfl, by simp⟩)).inv

/-- An overrun (R34 to R36). -/
theorem State.overrun_inv {s : State} (h : EngineInv s) (hw : Walks s) : EngineInv s.overrun := by
  have hw' : Walks { s with eng := { s.eng with timer := .expired } } := ⟨hw.state, hw.noHalt, hw.plan⟩
  unfold State.overrun
  repeat' (first | split | (dsimp only; split))
  all_goals first
    | exact Walks.inv (hw'.congr rfl) (by simp) h.transferInItsSlot
    | (rename_i hp
       have hx : s.xfer = none := EngineInv_noTransfer h (by simp [show s.eng.phase = _ from hp])
       exact State.endSlot_inv (hw'.congr rfl) (by simp) hx)

/-- The round timer ends (R33). -/
theorem State.timerExpired_inv {s : State} (h : EngineInv s) (hw : Walks s) : EngineInv s.timerExpired := by
  unfold State.timerExpired
  split
  · rename_i hp
    exact State.endRound_inv hw (by simp [hp.1]) (EngineInv_noTransfer h (by simp [hp.1]))
  · exact State.overrun_inv h hw

/-! ## Transfers -/

/-- A transfer ends (R71). -/
theorem State.endTransfer_inv {s : State} (x : Transfer) (o : OutcomeCode) (h : Walks s) (ht : s.eng.timer ≠ .stopped) :
    EngineInv (s.endTransfer x o) := by
  have hr : ∀ u : State, u.reportNoTrunk.eng.state = u.eng.state ∧ u.reportNoTrunk.eng.stop = u.eng.stop ∧
      u.reportNoTrunk.eng.halt = u.eng.halt ∧ u.reportNoTrunk.eng.active = u.eng.active ∧
      u.reportNoTrunk.eng.timer = u.eng.timer := by
    intro u
    unfold State.reportNoTrunk
    split <;> exact ⟨rfl, rfl, rfl, rfl, rfl⟩
  have hw : Walks (s.transferReports x o) := h.congr (by simp)
  unfold State.endTransfer
  dsimp only
  split
  · obtain ⟨h1, h2, h3, h4, h5⟩ := hr (s.transferReports x o)
    refine State.endSlot_inv ⟨?_, ?_, ?_⟩ ?_ (by simp [State.transferReports])
    · rw [h1, h2]; exact hw.state
    · rw [h3]; exact hw.noHalt
    · rw [h4]; exact hw.plan
    · rw [h5]; simpa using ht
  · exact State.endSlot_inv hw (by simpa using ht) rfl

/-- The decision after an attempt (R66, R69, R70). -/
theorem State.afterAttempt_inv {s : State} (x : Transfer) (o : OutcomeCode) (h : Walks s) (ht : s.eng.timer ≠ .stopped)
    (hp : s.eng.phase = .transferring) : EngineInv (s.afterAttempt x o) := by
  have hb : ∀ t, EngineInv (s.beginAttempt x t) := fun t =>
    Walks.inv (h.congr rfl) ht (by simp [State.beginAttempt, hp])
  unfold State.afterAttempt State.retryOrEnd State.turnOrEnd
  repeat' split
  all_goals first
    | exact hb _
    | exact State.endTransfer_inv _ _ h ht

/-- An attempt ends. -/
theorem State.endAttempt_inv {s : State} (x : Transfer) (o : OutcomeCode) (c : Option (BitVec 8)) (h : EngineInv s)
    (hx : s.xfer.isSome = true) : EngineInv (s.endAttempt x o c) := by
  have hp := h.transferInItsSlot.2 hx
  obtain ⟨hw, ht⟩ := EngineInv_walks h (.inl (by simp [hp]))
  unfold State.endAttempt
  exact State.afterAttempt_inv _ _ (hw.congr (by simp)) (by simpa using ht) (by simpa using hp)

/-! ## Slots -/

/-- The slot start reads have ended (R40). -/
theorem State.slotChecked_inv {s : State} {elapsed : Nat} (h : EngineInv s) (hp : s.eng.phase = .reading elapsed) :
    EngineInv (s.slotChecked elapsed) := by
  obtain ⟨hw, ht⟩ := EngineInv_walks h (.inl (by simp [hp]))
  have hx : s.xfer = none := EngineInv_noTransfer h (by simp [hp])
  have hwe : Walks s.endEngineRead := hw.congr rfl
  have hte : s.endEngineRead.eng.timer ≠ .stopped := ht
  have hxe : s.endEngineRead.xfer = none := hx
  have hend : EngineInv s.endEngineRead.endSlot := State.endSlot_inv hwe hte hxe
  have hand : ∀ u : State, u.eng = { s.eng with phase := .transferring } → u.xfer.isSome = true → EngineInv u := by
    intro u he hu
    refine Walks.inv ⟨?_, ?_, ?_⟩ ?_ ?_
    · rw [he]; exact hw.state
    · rw [he]; exact hw.noHalt
    · rw [he]; exact hw.plan
    · rw [he]; exact ht
    · rw [he]; simp [hu]
  unfold State.slotChecked
  split
  · exact State.endSlot_inv (hwe.congr rfl) hte hxe
  · split
    · unfold State.slotWork
      split
      · unfold State.transferSlot
        repeat' split
        all_goals first
          | exact hend
          | exact State.needTrunk_inv hwe hte hxe (hand _ rfl rfl)
      · exact hend
      · unfold State.openSlot
        split
        · refine State.needTrunk_inv hwe hte hxe ?_
          unfold State.takeDemand
          split
          · exact hend
          · exact Walks.inv ⟨hwe.state, hwe.noHalt, hwe.plan⟩ ht (by simp [State.beginEngineRead, State.endEngineRead, hx])
        · exact hend
      · exact State.needTrunk_inv hwe hte hxe (hand _ rfl rfl)
      · exact Walks.inv ⟨hwe.state, hwe.noHalt, hwe.plan⟩ ht (by simp [State.beginPause, State.endEngineRead, hx])
    · exact hend

/-- The slot start reads end (R21, R40). -/
theorem State.slotReadDone_inv {s : State} {elapsed : Nat} (h : EngineInv s) (hp : s.eng.phase = .reading elapsed) :
    EngineInv (s.slotReadDone elapsed) :=
  State.slotChecked_inv (engineInv_congr h (by simp) (by simp)) (by simpa using hp)

/-- The read of a taken demand's record has ended (R123, R124). -/
theorem State.demandChecked_inv {s : State} (retries : Nat) (h : EngineInv s)
    (hp : s.eng.phase = .demandReading retries) : EngineInv (s.demandChecked retries) := by
  obtain ⟨hw, ht⟩ := EngineInv_walks h (.inl (by simp [hp]))
  have hx : s.xfer = none := EngineInv_noTransfer h (by simp [hp])
  have hwe : Walks s.endEngineRead := hw.congr rfl
  have hte : s.endEngineRead.eng.timer ≠ .stopped := ht
  have hxe : s.endEngineRead.xfer = none := hx
  have hand : ∀ u : State, u.eng = { s.eng with phase := .transferring } → u.xfer.isSome = true → EngineInv u := by
    intro u he hu
    refine Walks.inv ⟨?_, ?_, ?_⟩ ?_ ?_
    · rw [he]; exact hw.state
    · rw [he]; exact hw.noHalt
    · rw [he]; exact hw.plan
    · rw [he]; exact ht
    · rw [he]; simp [hu]
  unfold State.demandChecked
  repeat' split
  · exact State.endSlot_inv hwe hte hxe
  · exact State.endSlot_inv (hwe.congr rfl) hte hxe
  · unfold State.needTrunkForDemand
    split
    · unfold State.handOverDemand
      split
      · exact hand _ rfl rfl
      · exact hand _ rfl rfl
    · refine State.needTrunk_inv (hwe.congr rfl) hte hxe ?_
      exact Walks.inv (hwe.congr rfl) hte (by simp [State.returnDemand, State.endEngineRead, hx, hp])
  · exact State.endSlot_inv (hwe.congr rfl) hte hxe

/-- The read of a taken demand's record ends (R123, R124). -/
theorem State.demandReadDone_inv {s : State} (retries : Nat) (h : EngineInv s)
    (hp : s.eng.phase = .demandReading retries) : EngineInv (s.demandReadDone retries) :=
  State.demandChecked_inv retries (engineInv_congr h (by simp) (by simp)) (by simpa using hp)

/-! ## Time -/

/-- Time keeps the engine state, its stop point, its halt cause and its banks. -/
theorem State.elapse_walks {s : State} (n : Nat) (h : Walks s) : Walks (s.elapse n) := by
  have e : (s.elapse n).eng = s.eng.elapse n := by
    show (s.elapseAttempt n).eng.elapse n = _
    rw [(s.elapseAttempt_frame n).2.2.2.2.1]
  constructor
  · rw [e]; exact h.state
  · rw [e]; exact h.noHalt
  · rw [e]; exact h.plan

/-- Time stops no timer and starts none. -/
theorem State.elapse_timer (s : State) (n : Nat) : (s.elapse n).eng.timer = .stopped ↔ s.eng.timer = .stopped := by
  have e : (s.elapse n).eng = s.eng.elapse n := by
    show (s.elapseAttempt n).eng.elapse n = _
    rw [(s.elapseAttempt_frame n).2.2.2.2.1]
  rw [e]
  unfold Engine.elapse
  cases s.eng.timer <;> simp

/-- Time ends no slot and begins none. -/
theorem State.elapse_phase (s : State) (n : Nat) :
    ((s.elapse n).eng.phase = .none ↔ s.eng.phase = .none) ∧
      ((s.elapse n).eng.phase = .transferring ↔ s.eng.phase = .transferring) := by
  have e : (s.elapse n).eng = s.eng.elapse n := by
    show (s.elapseAttempt n).eng.elapse n = _
    rw [(s.elapseAttempt_frame n).2.2.2.2.1]
  rw [e]
  unfold Engine.elapse
  cases s.eng.phase <;> simp

/-- Time keeps the relations. -/
theorem State.elapse_engineInv {s : State} (n : Nat) (h : EngineInv s) : EngineInv (s.elapse n) := by
  have hx : (s.elapse n).eng.phase = .transferring ↔ (s.elapse n).xfer.isSome = true := by
    rw [State.elapse_xfer_isSome, (s.elapse_phase n).2]
    exact h.transferInItsSlot
  rcases EngineInv_cases h with ⟨hw, ht⟩ | hr
  · exact (State.elapse_walks n hw).inv (fun e => ht ((s.elapse_timer n).1 e)) hx
  · have e : (s.elapse n).eng = s.eng.elapse n := by
      show (s.elapseAttempt n).eng.elapse n = _
      rw [(s.elapseAttempt_frame n).2.2.2.2.1]
    refine Rests.inv ⟨?_, ?_, ?_, ?_, ?_, State.elapse_xfer_none hr.noTransfer n⟩
    · rw [e]; exact hr.state
    · rw [e]; exact hr.noStop
    · exact (s.elapse_phase n).1.2 hr.noSlot
    · exact (s.elapse_timer n).2 hr.timer
    · rw [e]; exact hr.noPending

/-! ## The model's tests in the terms of the statements -/

/-- The gate's test is that the gate lets the slot run (R8). -/
theorem gateMatches_iff (s : State) (slot : SlotRecord) : gateMatches s.set.gates slot.gate = true ↔ gateRuns s slot := by
  unfold gateMatches gateRuns
  cases slot.gate <;> simp

/-- The lines' test is that the part transmits. -/
theorem State.transmitting_iff (s : State) (t : TrunkId) : s.transmitting t = true ↔ transmits s t := by
  unfold State.transmitting transmits
  cases (s.trunk t).burst <;> cases s.xfer <;> simp [BurstPhase.onLine]
  all_goals
    rename_i x
    cases x.phase <;> simp [AttemptPhase.onLine]

/-- A slot that needs a trunk goes on where one is READY (R44). -/
theorem State.needTrunk_ready {s : State} (h : someReady s) (work : State → State) : s.needTrunk work = work s := by
  have ha : s.anyReady = true := by simpa [State.anyReady, State.ready, State.trunk] using h
  simp [State.needTrunk, ha]

/-- It ends NO TRUNK while one is TRAINING and none READY (R44). -/
theorem State.needTrunk_training {s : State} (h : onlyTraining s) (work : State → State) :
    s.needTrunk work = (noTrunkTold s).endSlot := by
  have hr : s.anyReady = false := by simpa [State.anyReady, State.ready, State.trunk] using h.1
  have ht : s.anyTraining = true := by simpa [State.anyTraining] using h.2
  simp only [State.needTrunk, hr, ht]
  rfl

/-- It halts the engine where every trunk is OFF or FAILED (R45). -/
theorem State.needTrunk_none {s : State} (h : noneUsable s) (work : State → State) :
    s.needTrunk work = s.stopEngine .halted .noTrunks engineCauseNoTrunks := by
  have hr : s.anyReady = false := by simpa [State.anyReady, State.ready, State.trunk] using h.1
  have ht : s.anyTraining = false := by simpa [State.anyTraining] using h.2
  simp [State.needTrunk, hr, ht]

end Sys2Proof.Machine
end

