-- ==== Sys2Proof/Laws/Demands.lean ====
section
/-! SUPPORT. The demand list: each change of it keeps the relations of R118 and R121. -/

namespace Sys2Proof.Machine

open Safety

/-- A list whose demands keep their points, tags and priorities, and gain no IN FLIGHT demand. -/
theorem DemandListInv_map {l : List Demand} {f : Demand → Demand} (h : DemandListInv l)
    (hp : ∀ d, (f d).point = d.point) (ht : ∀ d, (f d).tag = d.tag) (hh : ∀ d, (f d).high = d.high)
    (hf : ((l.map f).filter (·.inFlight)).length ≤ 1) : DemandListInv (l.map f) where
  atMostEight := by simpa using h.atMostEight
  pointsDiffer := by
    have e : (l.map f).map (·.point) = l.map (·.point) := by simp [Function.comp_def, hp]
    rw [e]; exact h.pointsDiffer
  tagsDiffer := by
    have e : (l.map f).map (·.tag) = l.map (·.tag) := by simp [Function.comp_def, ht]
    rw [e]; exact h.tagsDiffer
  highFirst := by
    rw [List.pairwise_map]
    exact h.highFirst.imp (fun {d e} hde => by rw [hh, hh]; exact hde)
  oneInFlight := hf

/-- A list from which demands have left. -/
theorem DemandListInv_sublist {l m : List Demand} (h : DemandListInv l) (hs : m.Sublist l) : DemandListInv m where
  atMostEight := Nat.le_trans hs.length_le h.atMostEight
  pointsDiffer := h.pointsDiffer.sublist (hs.map _)
  tagsDiffer := h.tagsDiffer.sublist (hs.map _)
  highFirst := h.highFirst.sublist hs
  oneInFlight := Nat.le_trans (hs.filter _).length_le h.oneInFlight

/-- The demand returned to WAITING (R124). -/
theorem State.returnDemand_list {s : State} (h : DemandListInv s.demands) : DemandListInv s.returnDemand.demands :=
  DemandListInv_map h (fun _ => rfl) (fun _ => rfl) (fun _ => rfl) (by simp [List.filter_map, Function.comp_def])

/-- After the return no demand is IN FLIGHT. -/
theorem State.returnDemand_none (s : State) : s.returnDemand.demandInFlight = none := by
  simp [State.demandInFlight, State.returnDemand, List.find?_eq_none]

/-- The IN FLIGHT demand dropped (R121, R125). -/
theorem State.dropInFlight_list {s : State} (h : DemandListInv s.demands) : DemandListInv s.dropInFlight.demands :=
  DemandListInv_sublist h List.filter_sublist

/-- After the drop no demand is IN FLIGHT. -/
theorem State.dropInFlight_none (s : State) : s.dropInFlight.demandInFlight = none := by
  simp [State.demandInFlight, State.dropInFlight, List.find?_eq_none]

/-- What the take of a demand does to the list: one servable demand of it becomes IN FLIGHT, in its place (R118,
R123). -/
theorem takeFirst_some {test : Demand → Bool} : ∀ {l : List Demand} {d : Demand} {m : List Demand},
    takeFirst test l = some (d, m) →
      ∃ before after, l = before ++ d :: after ∧ m = before ++ { d with inFlight := true } :: after ∧ test d = true ∧
        ∀ e ∈ before, test e = false
  | [], _, _, h => absurd h (by simp [takeFirst])
  | e :: rest, d, m, h => by
    unfold takeFirst at h
    split at h
    · rename_i ht
      simp only [Option.some.injEq, Prod.mk.injEq] at h
      obtain ⟨rfl, rfl⟩ := h
      exact ⟨[], rest, rfl, rfl, ht, by simp⟩
    · rename_i ht
      cases hr : takeFirst test rest with
      | none => simp [hr] at h
      | some p =>
        obtain ⟨d', m'⟩ := p
        simp only [hr, Option.map_some, Option.some.injEq, Prod.mk.injEq] at h
        obtain ⟨rfl, rfl⟩ := h
        obtain ⟨before, after, h1, h2, h3, h4⟩ := takeFirst_some hr
        refine ⟨e :: before, after, by rw [h1]; rfl, by rw [h2]; rfl, h3, ?_⟩
        intro x hx
        rcases List.mem_cons.1 hx with rfl | hx
        · simpa using ht
        · exact h4 x hx

/-- The demand taken is the first of the list that passes the test, and every other keeps its place (R123). -/
theorem takeFirst_of_first {test : Demand → Bool} {before : List Demand} {d : Demand} (after : List Demand)
    (hb : ∀ e ∈ before, test e = false) (hd : test d = true) :
    takeFirst test (before ++ d :: after) = some (d, before ++ { d with inFlight := true } :: after) := by
  induction before with
  | nil => simp [takeFirst, hd]
  | cons e rest ih => simp [takeFirst, hb e (by simp), ih (fun x hx => hb x (by simp [hx]))]

/-- The joined list holds the old demands and the new one. -/
theorem joinDemand_perm (d : Demand) (l : List Demand) : (joinDemand d l).Perm (d :: l) := by
  unfold joinDemand
  split
  · refine (List.perm_middle).trans (List.Perm.cons d ?_)
    rw [List.takeWhile_append_dropWhile]
  · exact List.perm_append_comm

/-- A demand that shares neither point nor tag joins a list with a free place (R120, R121). -/
theorem joinDemand_inv {d : Demand} {l : List Demand} (h : DemandListInv l) (hl : l.length < 8)
    (hp : ∀ e ∈ l, e.point ≠ d.point) (ht : ∀ e ∈ l, e.tag ≠ d.tag) (hd : d.inFlight = false) :
    DemandListInv (joinDemand d l) where
  atMostEight := by rw [(joinDemand_perm d l).length_eq]; simpa using hl
  pointsDiffer := by
    rw [((joinDemand_perm d l).map _).nodup_iff, List.map_cons, List.nodup_cons]
    refine ⟨?_, h.pointsDiffer⟩
    rw [List.mem_map]
    rintro ⟨e, he, hde⟩
    exact hp e he hde
  tagsDiffer := by
    rw [((joinDemand_perm d l).map _).nodup_iff, List.map_cons, List.nodup_cons]
    refine ⟨?_, h.tagsDiffer⟩
    rw [List.mem_map]
    rintro ⟨e, he, hde⟩
    exact ht e he hde
  highFirst := by
    unfold joinDemand
    split
    · rename_i hh
      have hall : ∀ e ∈ l.takeWhile (·.high), e.high = true := fun e he => by simpa using List.mem_takeWhile_imp he
      rw [List.pairwise_append]
      refine ⟨h.highFirst.sublist (List.takeWhile_sublist _), ?_, ?_⟩
      · rw [List.pairwise_cons]
        exact ⟨fun _ _ _ => hh, h.highFirst.sublist (List.dropWhile_sublist _)⟩
      · exact fun e he _ _ _ => hall e he
    · rename_i hh
      rw [List.pairwise_append]
      refine ⟨h.highFirst, List.pairwise_singleton _ _, ?_⟩
      intro e _ x hx hxh
      rw [List.mem_singleton.1 hx] at hxh
      exact absurd hxh hh
  oneInFlight := by
    have e := ((joinDemand_perm d l).filter (·.inFlight)).length_eq
    rw [e, List.filter_cons_of_neg (by simp [hd])]
    exact h.oneInFlight

/-- No shared point and no shared tag (Table 6-2). -/
theorem duplicateCode_zero {l : List Demand} {p tag : BitVec 8} (h : duplicateCode l p tag = 0) :
    (∀ e ∈ l, e.point ≠ p) ∧ (∀ e ∈ l, e.tag ≠ tag) := by
  unfold duplicateCode flagBit at h
  constructor
  · intro e he hp
    have : l.any (fun d => d.point == p) = true := List.any_eq_true.2 ⟨e, he, by simp [hp]⟩
    rw [this] at h
    simp at h
  · intro e he hp
    have : l.any (fun d => d.tag == tag) = true := List.any_eq_true.2 ⟨e, he, by simp [hp]⟩
    rw [this] at h
    simp at h

end Sys2Proof.Machine
end

