-- ==== Sys2Proof/Laws/Host.lean ====
section
/-! SUPPORT. What a host access, taken, comes to: one lemma for each path of the address decode, and the address bounds
of the register window. -/

namespace Sys2Proof.Machine

/-- Every register stands below host address 78h (Table 11-1). -/
theorem registerAt_lt {n : Nat} {r : Register} (h : registerAt n = some r) : n < 0x78 := by
  unfold registerAt at h
  split at h <;> first | omega | simp at h

/-- No register stands at 78h or above. -/
theorem registerAt_high {n : Nat} (h : 0x78 ≤ n) : registerAt n = none := by
  cases e : registerAt n with
  | none => rfl
  | some r => exact absurd (registerAt_lt e) (by omega)

/-- A write to a register is handed to the register's owner (R164). -/
theorem State.hostAccess_write {s : State} {a : HostAddress} {r : Register} (v : Word)
    (hr : s.port.resetAsserted = false) (h : registerAt a.toNat = some r) :
    s.hostAccess a (.write v) = s.writeRegister r a v := by
  unfold State.hostAccess
  rw [if_neg (by rw [hr]; decide), h]
  rfl

/-- A read of a register is answered (R164). -/
theorem State.hostAccess_read {s : State} {a : HostAddress} {r : Register} (hr : s.port.resetAsserted = false)
    (h : registerAt a.toNat = some r) : s.hostAccess a .read = s.takeRead r := by
  unfold State.hostAccess
  rw [if_neg (by rw [hr]; decide), h]
  rfl

/-- An access from 4000h up reaches shared memory (R166). -/
theorem State.hostAccess_shared {s : State} {a : HostAddress} (x : Access) (hr : s.port.resetAsserted = false)
    (h : 0x4000 ≤ a.toNat) : s.hostAccess a x = s.sharedAccess (a.toNat - 0x4000) x := by
  unfold State.hostAccess
  rw [if_neg (by rw [hr]; decide), registerAt_high (by omega)]
  exact if_pos h

/-- An access below 4000h where no register stands is unmapped (R165). -/
theorem State.hostAccess_unmapped {s : State} {a : HostAddress} (x : Access) (hr : s.port.resetAsserted = false)
    (h : a.toNat < 0x4000) (hn : registerAt a.toNat = none) : s.hostAccess a x = s.unmappedAccess a x := by
  unfold State.hostAccess
  rw [if_neg (by rw [hr]; decide), hn]
  exact if_neg (by unfold sharedMemoryStart; omega)

/-- No access is taken while RESET is asserted (R176). -/
theorem State.hostAccess_reset {s : State} (a : HostAddress) (x : Access) (hr : s.port.resetAsserted = true) :
    s.hostAccess a x = s := by
  unfold State.hostAccess
  rw [if_pos hr]

/-- A judged write that passes is stored. -/
theorem State.judge_accepted {s t : State} {accepted : Bool} {a : HostAddress} {e : HostError} (h : accepted = true) :
    s.judge accepted a e t = t := by
  unfold State.judge
  rw [if_pos h]

/-- A judged write that fails is ignored with a host error. -/
theorem State.judge_refused {s t : State} {accepted : Bool} {a : HostAddress} {e : HostError} (h : accepted = false) :
    s.judge accepted a e t = s.hostError e a := by
  unfold State.judge
  rw [if_neg (by rw [h]; decide)]

/-- A word in a range. -/
theorem inRange_true {v : Word} {low high : Nat} (h : low ≤ v.toNat ∧ v.toNat ≤ high) : inRange v low high = true := by
  simp [inRange, h]

/-- A word outside a range. -/
theorem inRange_false {v : Word} {low high : Nat} (h : v.toNat < low ∨ high < v.toNat) :
    inRange v low high = false := by
  simp only [inRange, Bool.and_eq_false_iff, decide_eq_false_iff_not]
  omega

end Sys2Proof.Machine
end

