-- ==== Sys2Proof/Laws/RamState.lean ====
section
/-! SUPPORT. The RAM of the whole state: every operation that stores keeps the canonical form. -/

namespace Sys2Proof.Machine

/-- The memory right after reset has the form: it lists nothing. -/
theorem State.reset_ram_wf : State.reset.ram.wf = true := rfl

/-- The passing of time keeps the form. -/
theorem State.elapse_wf {s : State} (n : Nat) (h : s.ram.wf = true) : (s.elapse n).ram.wf = true := by
  show (s.elapseAttempt n).ram.wf = true
  unfold State.elapseAttempt
  repeat' (first | split | (dsimp only; split))
  all_goals first
    | exact h
    | exact State.storeAnswer_wf _ _ h
    | exact State.readPayload_wf _ _ _ h

/-- A shared-memory access keeps the form. -/
theorem State.sharedAccess_wf {s : State} (n : Nat) (x : Access) (h : s.ram.wf = true) :
    (s.sharedAccess n x).ram.wf = true := by
  cases x
  · exact State.serve_wf _ h
  · exact State.writeRam_wf _ _ (State.serve_wf _ h)

/-- A host access keeps the form. -/
theorem State.hostAccess_wf {s : State} (a : HostAddress) (x : Access) (h : s.ram.wf = true) :
    (s.hostAccess a x).ram.wf = true := by
  unfold State.hostAccess
  repeat' split
  all_goals first | (simpa using h) | exact State.sharedAccess_wf _ _ h

/-- A publication keeps the form. -/
theorem State.publish_wf {s : State} (h : s.ram.wf = true) : s.publish.ram.wf = true := by
  unfold State.publish
  split
  · exact h
  · exact State.serveMany_wf _ _ h

/-- The end of a slot's reads keeps the form. -/
theorem State.endSlotRead_wf {s : State} (h : s.ram.wf = true) : s.endSlotRead.ram.wf = true := by
  rcases s.endSlotRead_cases with e | ⟨elapsed, _, e⟩ <;> rw [e]
  · exact h
  · simpa [State.slotReadDone] using State.engineReadsOn_wf Config.readLimit h

/-- The end of the read of a taken demand's record keeps the form. -/
theorem State.endDemandRead_wf {s : State} (h : s.ram.wf = true) : s.endDemandRead.ram.wf = true := by
  rcases s.endDemandRead_cases with e | ⟨retries, _, e⟩ <;> rw [e]
  · exact h
  · simpa [State.demandReadDone] using State.engineReadsOn_wf Config.readLimit h

/-- The end of a validation keeps the form. -/
theorem State.endValidation_wf {s : State} (h : s.ram.wf = true) : s.endValidation.ram.wf = true := by
  rcases s.endValidation_cases with e | ⟨forSwitch, bank, base, e⟩ <;> rw [e]
  · exact h
  · simpa [State.validationDone] using State.commandReadsOn_wf Config.readLimit h

/-- The end of a point command's read keeps the form. -/
theorem State.endPointRead_wf {s : State} (h : s.ram.wf = true) : s.endPointRead.ram.wf = true := by
  rcases s.endPointRead_cases with e | ⟨command, p, e⟩ <;> rw [e]
  · exact h
  · simpa [State.pointReadDone] using State.commandReadsOn_wf Config.readLimit h

/-- The end of a post's check keeps the form. -/
theorem State.endPostCheck_wf {s : State} (h : s.ram.wf = true) : s.endPostCheck.ram.wf = true := by
  rcases s.endPostCheck_cases with e | ⟨p, high, deadline, tag, e⟩ <;> rw [e]
  · exact h
  · simpa [State.postCheckDone] using State.commandReadsOn_wf Config.readLimit h

/-- A word just stored is read. -/
theorem State.readRam_writeRam_same {s : State} (a : Nat) (w : Word) (h : s.ram.wf = true) :
    (s.writeRam a w).readRam a = w := Ram.read_write_same h

/-- A store leaves every other word alone. -/
theorem State.readRam_writeRam_other {s : State} {a b : Nat} (w : Word) (h : ramAddress b ≠ ramAddress a) :
    (s.writeRam a w).readRam b = s.readRam b := Ram.read_write_other h

/-- An address inside the RAM is its own. -/
theorem ramAddress_of_lt {a : Nat} (h : a < Config.ramWords) : ramAddress a = a := Nat.mod_eq_of_lt h

end Sys2Proof.Machine
end

