-- ==== Sys2Proof/Laws/Reads.lean ====
section
/-! SUPPORT. The reads of records: a read with its end mapped reads the same words, what the read of a slot record finds
(R21), what each point check that passes says of the words (R12, R100), and where the read of a legal record ends. -/

namespace Sys2Proof.Machine

/-! ## A read with its end mapped -/

@[simp] theorem Reading.wants_map {α β : Type} (f : α → β) (r : Reading α) (got : List Word) :
    (r.map f).wants got = r.wants got := by
  induction r generalizing got with
  | done _ => rfl
  | register p next ih => cases got with
    | nil => rfl
    | cons w rest => exact ih w rest
  | word a next ih => cases got with
    | nil => rfl
    | cons w rest => exact ih w rest

@[simp] theorem Reading.samples_map {α β : Type} (f : α → β) (r : Reading α) (c : Settings) (got : List Word) :
    (r.map f).samples c got = r.samples c got := by
  induction r generalizing got with
  | done _ => rfl
  | register p next ih => cases got with
    | nil => exact congrArg _ (ih _ [])
    | cons w rest => exact ih w rest
  | word a next ih => cases got with
    | nil => rfl
    | cons w rest => exact ih w rest

@[simp] theorem Reading.value_map {α β : Type} (f : α → β) (r : Reading α) (c : Settings) (m : Ram) (got : List Word) :
    (r.map f).value c m got = f (r.value c m got) := by
  induction r generalizing got with
  | done _ => rfl
  | register p next ih => cases got with
    | nil => exact ih _ []
    | cons w rest => exact ih w rest
  | word a next ih => cases got with
    | nil => exact ih _ []
    | cons w rest => exact ih w rest

/-! ## Slot records -/

/-- The checks of an OPEN or SYNC record say the same whatever word 1 holds (Table 10-8). -/
theorem parseSlot_of_word1_unread {w0 : Word} (h : readsSlotWord1 w0 = false) (w1 : Word) :
    parseSlot w0 0 = parseSlot w0 w1 := by
  have hk : field w0 0 3 = 2 ∨ field w0 0 3 = 3 := Decidable.or_iff_not_imp_left.mpr (by simpa [readsSlotWord1] using h)
  rcases hk with hk | hk <;> simp [parseSlot, hk]

/-- Read at one moment, a slot record is judged by the two words that stand there. -/
theorem readSlot_value (base i : Nat) (c : Settings) (m : Ram) :
    (readSlot base i).value c m [] =
      parseSlot (m.read (ramAddress (base + slotOffset i))) (m.read (ramAddress (base + slotOffset i + 1))) := by
  simp only [readSlot, Reading.value]
  split
  · rfl
  · next h => exact parseSlot_of_word1_unread (Bool.eq_false_iff.mpr h) _

/-! ## Point records -/

/-- The checks of word 0 pass exactly for a defined function and a legal station of it (codes 14 to 16). -/
theorem pointFunction_ok {w0 : Word} {f : PointFunction} :
    pointFunction w0 = .ok f ↔
      functionOf w0 = some f ∧ pointStation w0 ≠ 0 ∧ ¬(pointStation w0 = Config.broadcastStation ∧ f.usesIn = true) := by
  unfold pointFunction
  cases functionOf w0 with
  | none => simp
  | some g =>
    by_cases h0 : pointStation w0 = 0
    · simp [h0]
    · by_cases h1 : pointStation w0 = Config.broadcastStation ∧ g.usesIn = true
      · simp only [h1.1, h1.2, decide_true, Bool.and_self, if_true]
        constructor
        · exact nofun
        · rintro ⟨hg, -, hf⟩
          cases hg
          exact absurd ⟨trivial, h1.2⟩ hf
      · have h2 : (decide (pointStation w0 = Config.broadcastStation) && g.usesIn) = false := by
          simpa using h1
        simp only [h0, h2, if_false, Bool.false_eq_true]
        constructor
        · intro h
          cases h
          exact ⟨rfl, h0, h1⟩
        · rintro ⟨hg, -, -⟩
          cases hg
          rfl

/-- Check 18 passes exactly for a record whose pages lie inside the RAM, and then leaves the record as it is. -/
theorem PointRecord.pagesChecked_ok {r u : PointRecord} :
    r.pagesChecked = .ok u ↔
      u = r ∧ r.inPage0 + r.inLength ≤ Config.ramWords ∧ r.inPage1 + r.inLength ≤ Config.ramWords ∧
        r.outPage0 + r.outLength ≤ Config.ramWords ∧ r.outPage1 + r.outLength ≤ Config.ramWords := by
  unfold PointRecord.pagesChecked pageInside
  split
  · rename_i h
    simp only [Bool.and_eq_true, decide_eq_true_eq] at h
    constructor
    · intro hu
      cases hu
      exact ⟨rfl, h.1.1.1, h.1.1.2, h.1.2, h.2⟩
    · rintro ⟨rfl, -⟩
      rfl
  · rename_i h
    constructor
    · exact nofun
    · rintro ⟨-, h0, h1, h2, h3⟩
      exact absurd (by simp [h0, h1, h2, h3]) h

/-- A function that receives asks for the two incoming page addresses, any other reads on without them (R100). -/
theorem readPages_value {α : Type} (used : Bool) (a : Nat) (next : Word → Word → Reading α) (c : Settings) (m : Ram) :
    (readPages used a next).value c m [] =
      if used then (next (m.read (ramAddress a)) (m.read (ramAddress (a + 1)))).value c m []
      else (next 0 0).value c m [] := by
  cases used <;> rfl

/-- The record at an address, read whole from the RAM: the checks of word 0, then of word 2, then of the pages that the
function uses. -/
theorem readPoint_value (a : Nat) (c : Settings) (m : Ram) :
    (readPoint a).value c m [] =
      match pointFunction (m.read (ramAddress a)) with
      | .error code => .error code
      | .ok f =>
        let word (i : Nat) : Word := m.read (ramAddress (a + i))
        if f.lengthsLegal (word 2) then
          (pointRecord f (word 0) (word 1) (word 2) (if f.usesIn then word 3 else 0) (if f.usesIn then word 4 else 0)
            (if f.usesOut then word 5 else 0) (if f.usesOut then word 6 else 0)).pagesChecked
        else .error 17 := by
  unfold readPoint
  simp only [Reading.value]
  cases pointFunction (m.read (ramAddress a)) with
  | error code => rfl
  | ok f =>
    simp only [Reading.value]
    split
    · rw [readPages_value]
      cases f <;> rfl
    · rfl

end Sys2Proof.Machine
end

