-- ==== Sys2Proof/Laws/Ring.lean ====
section
/-! SUPPORT. The event ring: each change of it keeps the relations of R147, R149 to R151, R154 and R157. -/

namespace Sys2Proof.Machine

open Safety

/-! ## Arithmetic of the ring -/

/-- A ring has at least sixteen entries (R147). -/
theorem Ring.entries_ge {r : Ring} (h : RingInv r) : 16 ≤ r.entries := by
  unfold Ring.entries
  calc 16 = 2 ^ 4 := by norm_num
    _ ≤ 2 ^ r.size.toNat := Nat.pow_le_pow_right (by norm_num) h.sizeLow

/-- The published occupancy, without the modulus (R149). -/
theorem Ring.published_cases {r : Ring} (hr : r.readIndex < r.entries) (hw : r.writeIndex < r.entries) :
    (r.readIndex ≤ r.writeIndex ∧ r.published = r.writeIndex - r.readIndex) ∨
      (r.writeIndex < r.readIndex ∧ r.published = r.writeIndex + r.entries - r.readIndex) := by
  unfold Ring.published
  rcases Nat.lt_or_ge r.writeIndex r.readIndex with h | h
  · exact .inr ⟨h, Nat.mod_eq_of_lt (by omega)⟩
  · refine .inl ⟨h, ?_⟩
    rw [show r.writeIndex + r.entries - r.readIndex = (r.writeIndex - r.readIndex) + r.entries by omega,
      Nat.add_mod_right, Nat.mod_eq_of_lt (by omega)]

/-! ## Admission (R154) -/

/-- What admission can do: count, reserve, or reserve RING FULL and begin to drop. -/
theorem Ring.admission_cases (r : Ring) (record full : EventRecord) :
    (r.dropping = true ∧ r.admission record full = { r with dropped := min (r.dropped + 1) 65535 }) ∨
    (r.dropping = false ∧ r.reserved + 3 ≤ r.entries ∧
      r.admission record full = { r with awaiting := r.awaiting ++ [record] }) ∨
    (r.dropping = false ∧ ¬r.reserved + 3 ≤ r.entries ∧
      r.admission record full = { r with awaiting := r.awaiting ++ [full], dropping := true, dropped := 1 }) := by
  unfold Ring.admission
  repeat' split
  · exact .inl ⟨by assumption, rfl⟩
  · exact .inr (.inl ⟨by simp_all, by assumption, rfl⟩)
  · exact .inr (.inr ⟨by simp_all, by assumption, rfl⟩)

/-- Admission keeps the relations of the ring (R151, R154). -/
theorem Ring.admission_inv {r : Ring} (record full : EventRecord) (h : RingInv r) : RingInv (r.admission record full) := by
  have hE := Ring.entries_ge h
  rcases r.admission_cases record full with ⟨hd, e⟩ | ⟨hd, hlt, e⟩ | ⟨hd, hge, e⟩ <;> rw [e]
  · have hne : r.dropped ≠ 0 := fun h0 => absurd (h.droppedOnlyWhileDropping.2 h0) (by simp [hd])
    exact
      { sizeLow := h.sizeLow, sizeHigh := h.sizeHigh, fits := h.fits, readIndexInRing := h.readIndexInRing
        writeIndexInRing := h.writeIndexInRing, reservedAtMost := h.reservedAtMost
        roomUnlessDropping := h.roomUnlessDropping
        droppedOnlyWhileDropping :=
          ⟨fun hf => absurd hf (by simp [hd]), fun h0 => absurd h0 (by dsimp only; omega)⟩
        droppedSaturates := Nat.min_le_right _ _, watermarkLow := h.watermarkLow, watermarkHigh := h.watermarkHigh }
  · have hres : ({ r with awaiting := r.awaiting ++ [record] } : Ring).reserved = r.reserved + 1 := by
      simp [Ring.reserved, Ring.published, Ring.entries, Nat.add_assoc]
    have hent : ({ r with awaiting := r.awaiting ++ [record] } : Ring).entries = r.entries := rfl
    exact
      { sizeLow := h.sizeLow, sizeHigh := h.sizeHigh, fits := h.fits, readIndexInRing := h.readIndexInRing
        writeIndexInRing := h.writeIndexInRing, reservedAtMost := by rw [hres, hent]; omega
        roomUnlessDropping := fun _ => by rw [hres, hent]; omega
        droppedOnlyWhileDropping := h.droppedOnlyWhileDropping, droppedSaturates := h.droppedSaturates
        watermarkLow := h.watermarkLow, watermarkHigh := h.watermarkHigh }
  · have hroom := h.roomUnlessDropping hd
    have hres : ({ r with awaiting := r.awaiting ++ [full], dropping := true, dropped := 1 } : Ring).reserved
        = r.reserved + 1 := by
      simp [Ring.reserved, Ring.published, Ring.entries, Nat.add_assoc]
    have hent : ({ r with awaiting := r.awaiting ++ [full], dropping := true, dropped := 1 } : Ring).entries
        = r.entries := rfl
    exact
      { sizeLow := h.sizeLow, sizeHigh := h.sizeHigh, fits := h.fits, readIndexInRing := h.readIndexInRing
        writeIndexInRing := h.writeIndexInRing, reservedAtMost := by rw [hres, hent]; omega
        roomUnlessDropping := fun hf => absurd hf (by simp)
        droppedOnlyWhileDropping := ⟨fun hf => absurd hf (by simp), fun h0 => absurd h0 (by simp)⟩
        droppedSaturates := by simp, watermarkLow := h.watermarkLow, watermarkHigh := h.watermarkHigh }

/-- An event's arrival keeps them (R152, R154). -/
@[simp] theorem State.report_ringInv {s : State} (k : EventKind) (t : Option TrunkId) (n : Nat) (o : OutcomeCode)
    (i d : Word) (h : RingInv s.ring) : RingInv (s.report k t n o i d).ring := by
  unfold State.report
  dsimp only
  split
  · exact Ring.admission_inv _ _ h
  · exact h

/-! ## Publication (R149) -/

/-- A publication moves one record from the list to the published ones. -/
theorem Ring.publish_reserved {r : Ring} (h : RingInv r) {a : EventRecord} {rest : List EventRecord}
    (ha : r.awaiting = a :: rest) :
    (r.publish rest).published = r.published + 1 ∧ (r.publish rest).reserved = r.reserved := by
  have hE := Ring.entries_ge h
  have hres := h.reservedAtMost
  have hlen : r.awaiting.length = rest.length + 1 := by rw [ha]; rfl
  have hp : r.published + 1 ≤ r.entries - 1 := by
    unfold Ring.reserved at hres
    omega
  have hw := h.writeIndexInRing
  have hr := h.readIndexInRing
  have key : (r.publish rest).published = r.published + 1 := by
    have e : (r.publish rest).published = ((r.writeIndex + 1) % r.entries + r.entries - r.readIndex) % r.entries := rfl
    rw [e]
    rcases Ring.published_cases hr hw with ⟨hle, hp'⟩ | ⟨hlt, hp'⟩
    · rcases Nat.lt_or_ge (r.writeIndex + 1) r.entries with hw1 | hw1
      · rw [Nat.mod_eq_of_lt hw1,
          show r.writeIndex + 1 + r.entries - r.readIndex = (r.writeIndex + 1 - r.readIndex) + r.entries by omega,
          Nat.add_mod_right, Nat.mod_eq_of_lt (by omega)]
        omega
      · rw [show r.writeIndex + 1 = r.entries by omega, Nat.mod_self, Nat.mod_eq_of_lt (by omega)]
        omega
    · rw [Nat.mod_eq_of_lt (show r.writeIndex + 1 < r.entries by omega), Nat.mod_eq_of_lt (by omega)]
      omega
  refine ⟨key, ?_⟩
  unfold Ring.reserved
  rw [key, hlen]
  simp only [Ring.publish]
  omega

/-- A publication keeps the relations of the ring. -/
theorem Ring.publish_inv {r : Ring} (h : RingInv r) {a : EventRecord} {rest : List EventRecord}
    (ha : r.awaiting = a :: rest) : RingInv (r.publish rest) := by
  have hE := Ring.entries_ge h
  obtain ⟨_, hres⟩ := Ring.publish_reserved h ha
  exact
    { sizeLow := h.sizeLow, sizeHigh := h.sizeHigh, fits := h.fits, readIndexInRing := h.readIndexInRing
      writeIndexInRing := Nat.mod_lt _ (by omega)
      reservedAtMost := by rw [hres]; exact h.reservedAtMost
      roomUnlessDropping := fun hd => by rw [hres]; exact h.roomUnlessDropping hd
      droppedOnlyWhileDropping := h.droppedOnlyWhileDropping, droppedSaturates := h.droppedSaturates
      watermarkLow := h.watermarkLow, watermarkHigh := h.watermarkHigh }

/-- EVENT_RECORD_PUBLISHED keeps them. -/
@[simp] theorem State.publish_ringInv {s : State} (h : RingInv s.ring) : RingInv s.publish.ring := by
  unfold State.publish
  split
  · exact h
  · rw [State.advanceRing, (s.serveMany_frame _ _).2.2.2.2.2.2.2.2.2.2.2.1]
    exact Ring.publish_inv h (by assumption)

/-! ## The host's writes (R148, R150, R155, R157) -/

/-- A read index moved within the published records lowers the occupancies (R150). -/
theorem Ring.moveRead_published {r : Ring} (h : RingInv r) {value : Nat} (hv : value < r.entries)
    (hc : r.consumed value ≤ r.published) :
    ({ r with readIndex := value } : Ring).published = r.published - r.consumed value := by
  have hw := h.writeIndexInRing
  have hr := h.readIndexInRing
  have e : ({ r with readIndex := value } : Ring).published = (r.writeIndex + r.entries - value) % r.entries := rfl
  have hcons : (r.readIndex ≤ value ∧ r.consumed value = value - r.readIndex) ∨
      (value < r.readIndex ∧ r.consumed value = value + r.entries - r.readIndex) := by
    unfold Ring.consumed
    rcases Nat.lt_or_ge value r.readIndex with hlt | hge
    · exact .inr ⟨hlt, Nat.mod_eq_of_lt (by omega)⟩
    · refine .inl ⟨hge, ?_⟩
      rw [show value + r.entries - r.readIndex = (value - r.readIndex) + r.entries by omega, Nat.add_mod_right,
        Nat.mod_eq_of_lt (by omega)]
  rw [e]
  rcases Nat.lt_or_ge r.writeIndex value with hlt | hge
  · rw [Nat.mod_eq_of_lt (by omega)]
    rcases Ring.published_cases hr hw with ⟨_, hp⟩ | ⟨_, hp⟩ <;> rcases hcons with ⟨_, hq⟩ | ⟨_, hq⟩ <;> omega
  · rw [show r.writeIndex + r.entries - value = (r.writeIndex - value) + r.entries by omega, Nat.add_mod_right,
      Nat.mod_eq_of_lt (by omega)]
    rcases Ring.published_cases hr hw with ⟨_, hp⟩ | ⟨_, hp⟩ <;> rcases hcons with ⟨_, hq⟩ | ⟨_, hq⟩ <;> omega

/-- An accepted read index keeps the relations of the ring. -/
theorem Ring.moveRead_inv {r : Ring} (h : RingInv r) {value : Nat} (hv : value < r.entries)
    (hc : r.consumed value ≤ r.published) : RingInv { r with readIndex := value } := by
  have hp := Ring.moveRead_published h hv hc
  have hres : ({ r with readIndex := value } : Ring).reserved ≤ r.reserved := by
    unfold Ring.reserved
    rw [hp]
    dsimp only
    omega
  exact
    { sizeLow := h.sizeLow, sizeHigh := h.sizeHigh, fits := h.fits, readIndexInRing := hv
      writeIndexInRing := h.writeIndexInRing
      reservedAtMost := Nat.le_trans hres h.reservedAtMost
      roomUnlessDropping := fun hd => Nat.le_trans hres (h.roomUnlessDropping hd)
      droppedOnlyWhileDropping := h.droppedOnlyWhileDropping, droppedSaturates := h.droppedSaturates
      watermarkLow := h.watermarkLow, watermarkHigh := h.watermarkHigh }

/-- A ring that resumes keeps the relations of the ring (R155). -/
theorem State.resume_ringInv {s : State} (h : RingInv s.ring) (hhalf : s.ring.reserved ≤ s.ring.entries / 2) :
    RingInv s.resume.ring := by
  have hE := Ring.entries_ge h
  have hres : s.resume.ring.reserved = s.ring.reserved + 1 := by
    simp [State.resume, Ring.reserved, Ring.published, Ring.entries, Nat.add_assoc]
  have hent : s.resume.ring.entries = s.ring.entries := rfl
  exact
    { sizeLow := h.sizeLow, sizeHigh := h.sizeHigh, fits := h.fits, readIndexInRing := h.readIndexInRing
      writeIndexInRing := h.writeIndexInRing
      reservedAtMost := by rw [hres, hent]; omega
      roomUnlessDropping := fun _ => by rw [hres, hent]; omega
      droppedOnlyWhileDropping := ⟨fun _ => rfl, fun _ => rfl⟩, droppedSaturates := Nat.zero_le _
      watermarkLow := h.watermarkLow, watermarkHigh := h.watermarkHigh }

/-- A write to RING READ INDEX keeps them (R150, R155). -/
@[simp] theorem State.writeReadIndex_ringInv {s : State} (v : Word) (h : RingInv s.ring) :
    RingInv (s.writeReadIndex v).ring := by
  unfold State.writeReadIndex
  split
  · exact h
  · rename_i hv
    split
    · exact h
    · rename_i hc
      have hm : RingInv ({ s with ring := { s.ring with readIndex := v.toNat } } : State).ring :=
        Ring.moveRead_inv h (by omega) (by omega)
      dsimp only
      split
      · rename_i hb
        simp only [Bool.and_eq_true, decide_eq_true_eq] at hb
        exact State.resume_ringInv hm hb.2
      · exact hm

/-- An emptied ring that fits keeps them (R148, R156). -/
theorem Ring.emptied_inv {r : Ring} (h4 : 4 ≤ r.size.toNat) (h10 : r.size.toNat ≤ 10)
    (hf : r.base.toNat + 8 * r.entries ≤ 16384) (hl : 1 ≤ r.watermark.toNat) (hh : r.watermark.toNat ≤ r.entries - 1) :
    RingInv r.emptied := by
  have hE : 16 ≤ r.entries := by
    unfold Ring.entries
    calc 16 = 2 ^ 4 := by norm_num
      _ ≤ 2 ^ r.size.toNat := Nat.pow_le_pow_right (by norm_num) h4
  have hent : r.emptied.entries = r.entries := rfl
  have hres : r.emptied.reserved = 0 := by
    simp [Ring.emptied, Ring.reserved, Ring.published]
  exact
    { sizeLow := h4, sizeHigh := h10, fits := hf, readIndexInRing := by rw [hent]; simp [Ring.emptied]; omega
      writeIndexInRing := by rw [hent]; simp [Ring.emptied]; omega
      reservedAtMost := by rw [hres]; exact Nat.zero_le _
      roomUnlessDropping := fun _ => by rw [hres]; exact Nat.zero_le _
      droppedOnlyWhileDropping := ⟨fun _ => rfl, fun _ => rfl⟩, droppedSaturates := Nat.zero_le _
      watermarkLow := hl, watermarkHigh := hh }

/-- A ring emptied by ENGINE RESET keeps them (R156). -/
theorem Ring.emptied_keeps {r : Ring} (h : RingInv r) : RingInv r.emptied :=
  Ring.emptied_inv h.sizeLow h.sizeHigh h.fits h.watermarkLow h.watermarkHigh

/-- A write to RING BASE keeps them (R148). -/
@[simp] theorem State.writeRingBase_ringInv {s : State} (v : Word) (h : RingInv s.ring) :
    RingInv (s.writeRingBase v).ring := by
  unfold State.writeRingBase
  repeat' split
  · exact h
  · exact h
  · exact h
  · rename_i hf
    simp only [ringFits, Bool.not_eq_true', decide_eq_false_iff_not, Decidable.not_not] at hf
    exact Ring.emptied_inv (r := { s.ring with base := v }) h.sizeLow h.sizeHigh hf h.watermarkLow h.watermarkHigh

/-- A write to RING SIZE keeps them (R148, R157). -/
@[simp] theorem State.writeRingSize_ringInv {s : State} (v : Word) (h : RingInv s.ring) :
    RingInv (s.writeRingSize v).ring := by
  unfold State.writeRingSize
  repeat' split
  · exact h
  · exact h
  · exact h
  · rename_i hr _ hf
    simp only [ringFits, Bool.not_eq_true', decide_eq_false_iff_not, Decidable.not_not] at hf
    have hr' : 4 ≤ v.toNat ∧ v.toNat ≤ 10 := by
      simp only [Bool.or_eq_true, decide_eq_true_eq] at hr
      omega
    have h16 : 2 ^ 4 ≤ 2 ^ v.toNat := Nat.pow_le_pow_right (by norm_num) hr'.1
    have h1024 : 2 ^ v.toNat ≤ 2 ^ 10 := Nat.pow_le_pow_right (by norm_num) hr'.2
    dsimp only
    refine Ring.emptied_inv
      (r :=
        { s.ring with
          size := v
          watermark := if 2 ^ v.toNat - 1 < s.ring.watermark.toNat then BitVec.ofNat 16 (2 ^ v.toNat - 1)
            else s.ring.watermark }) hr'.1 hr'.2 hf ?_ ?_
    · dsimp only
      split
      · rw [BitVec.toNat_ofNat, Nat.mod_eq_of_lt (by omega)]
        omega
      · exact h.watermarkLow
    · show _ ≤ 2 ^ v.toNat - 1
      dsimp only
      split
      · rw [BitVec.toNat_ofNat, Nat.mod_eq_of_lt (by omega)]
      · omega

/-! ## Everything else reaches the ring by reporting events -/

/-- Relations of the ring: `reportTrunk`. -/
@[simp] theorem State.reportTrunk_ringInv {s : State} (t : TrunkId) (o n : TrunkState) (c : Nat) (hinv : RingInv s.ring) :
    RingInv (s.reportTrunk t o n c).ring := by
  unfold State.reportTrunk
  repeat' (first | split | (dsimp only; split))
  all_goals simp (maxDischargeDepth := 8) [hinv]

/-- Relations of the ring: `trainEffect`. -/
@[simp] theorem State.trainEffect_ringInv {s : State} (t : TrunkId) (hinv : RingInv s.ring) :
    RingInv (s.trainEffect t).ring := by
  unfold State.trainEffect
  repeat' (first | split | (dsimp only; split))
  all_goals simp (maxDischargeDepth := 8) [hinv]

/-- Relations of the ring: `offEffect`. -/
@[simp] theorem State.offEffect_ringInv {s : State} (t : TrunkId) (hinv : RingInv s.ring) :
    RingInv (s.offEffect t).ring := by
  unfold State.offEffect
  repeat' (first | split | (dsimp only; split))
  all_goals simp (maxDischargeDepth := 8) [hinv]

/-- Relations of the ring: `trunkEffect`. -/
@[simp] theorem State.trunkEffect_ringInv {s : State} (c : TrunkCommand) (t : TrunkId) (hinv : RingInv s.ring) :
    RingInv (s.trunkEffect c t).ring := by
  unfold State.trunkEffect
  repeat' (first | split | (dsimp only; split))
  all_goals simp (maxDischargeDepth := 8) [hinv]

/-- Relations of the ring: `trunkCommand`. -/
@[simp] theorem State.trunkCommand_ringInv {s : State} (c : TrunkCommand) (hinv : RingInv s.ring) :
    RingInv (s.trunkCommand c).ring := by
  unfold State.trunkCommand
  repeat' (first | split | (dsimp only; split))
  all_goals simp (maxDischargeDepth := 8) [hinv]

/-- Relations of the ring: `releaseHeldTrunk`. -/
@[simp] theorem State.releaseHeldTrunk_ringInv {s : State} (t : TrunkId) (hinv : RingInv s.ring) :
    RingInv (s.releaseHeldTrunk t).ring := by
  unfold State.releaseHeldTrunk
  repeat' (first | split | (dsimp only; split))
  all_goals simp (maxDischargeDepth := 8) [hinv]

/-- Relations of the ring: `lineReport`. -/
@[simp] theorem State.lineReport_ringInv {s : State} (x : Transfer) (o : OutcomeCode) (hinv : RingInv s.ring) :
    RingInv (s.lineReport x o).ring := by
  unfold State.lineReport
  repeat' (first | split | (dsimp only; split))
  all_goals simp (maxDischargeDepth := 8) [hinv]

/-- Relations of the ring: `stationEnable`. -/
@[simp] theorem State.stationEnable_ringInv {s : State} (hinv : RingInv s.ring) :
    RingInv s.stationEnable.ring := by
  unfold State.stationEnable
  repeat' (first | split | (dsimp only; split))
  all_goals simp (maxDischargeDepth := 8) [hinv]

/-- Relations of the ring: `stationDisable`. -/
@[simp] theorem State.stationDisable_ringInv {s : State} (hinv : RingInv s.ring) :
    RingInv s.stationDisable.ring := by
  unfold State.stationDisable
  repeat' (first | split | (dsimp only; split))
  all_goals simp (maxDischargeDepth := 8) [hinv]

/-- Relations of the ring: `reportStation`. -/
@[simp] theorem State.reportStation_ringInv {s : State} (x : Transfer) (o : OutcomeCode) (u v : StationState) (c : Nat) (hinv : RingInv s.ring) :
    RingInv (s.reportStation x o u v c).ring := by
  unfold State.reportStation
  repeat' (first | split | (dsimp only; split))
  all_goals simp (maxDischargeDepth := 8) [hinv]

/-- Relations of the ring: `pointHealth`. -/
@[simp] theorem State.pointHealth_ringInv {s : State} (x : Transfer) (o : OutcomeCode) (hinv : RingInv s.ring) :
    RingInv (s.pointHealth x o).ring := by
  unfold State.pointHealth
  repeat' (first | split | (dsimp only; split))
  all_goals simp (maxDischargeDepth := 8) [hinv]

/-- Relations of the ring: `probeHealth`. -/
@[simp] theorem State.probeHealth_ringInv {s : State} (x : Transfer) (o : OutcomeCode) (hinv : RingInv s.ring) :
    RingInv (s.probeHealth x o).ring := by
  unfold State.probeHealth
  repeat' (first | split | (dsimp only; split))
  all_goals simp (maxDischargeDepth := 8) [hinv]

/-- Relations of the ring: `stationReport`. -/
@[simp] theorem State.stationReport_ringInv {s : State} (x : Transfer) (o : OutcomeCode) (hinv : RingInv s.ring) :
    RingInv (s.stationReport x o).ring := by
  unfold State.stationReport
  repeat' (first | split | (dsimp only; split))
  all_goals simp (maxDischargeDepth := 8) [hinv]

/-- Relations of the ring: `reportCondition`. -/
@[simp] theorem State.reportCondition_ringInv {s : State} (x : Transfer) (o : OutcomeCode) (c : BitVec 8) (f : Nat) (hinv : RingInv s.ring) :
    RingInv (s.reportCondition x o c f).ring := by
  unfold State.reportCondition
  repeat' (first | split | (dsimp only; split))
  all_goals simp (maxDischargeDepth := 8) [hinv]

/-- Relations of the ring: `conditionReport`. -/
@[simp] theorem State.conditionReport_ringInv {s : State} (x : Transfer) (o : OutcomeCode) (c : BitVec 8) (hinv : RingInv s.ring) :
    RingInv (s.conditionReport x o c).ring := by
  unfold State.conditionReport
  repeat' (first | split | (dsimp only; split))
  all_goals simp (maxDischargeDepth := 8) [hinv]

/-- Relations of the ring: `reportUpdate`. -/
@[simp] theorem State.reportUpdate_ringInv {s : State} (b : Bool) (t : Option TrunkId) (n : Nat) (o : OutcomeCode) (p : BitVec 8) (hinv : RingInv s.ring) :
    RingInv (s.reportUpdate b t n o p).ring := by
  unfold State.reportUpdate
  repeat' (first | split | (dsimp only; split))
  all_goals simp (maxDischargeDepth := 8) [hinv]

/-- Relations of the ring: `pointReport`. -/
@[simp] theorem State.pointReport_ringInv {s : State} (x : Transfer) (o : OutcomeCode) (hinv : RingInv s.ring) :
    RingInv (s.pointReport x o).ring := by
  unfold State.pointReport
  repeat' (first | split | (dsimp only; split))
  all_goals simp (maxDischargeDepth := 8) [hinv]

/-- Relations of the ring: `release`. -/
@[simp] theorem State.release_ringInv {s : State} (p : BitVec 8) (n : Nat) (b : Bool) (hinv : RingInv s.ring) :
    RingInv (s.release p n b).ring := by
  unfold State.release
  repeat' (first | split | (dsimp only; split))
  all_goals simp (maxDischargeDepth := 8) [hinv]

/-- Relations of the ring: `pointChecked`. -/
@[simp] theorem State.pointChecked_ringInv {s : State} (c : PointCommand) (p : BitVec 8) (hinv : RingInv s.ring) :
    RingInv (s.pointChecked c p).ring := by
  unfold State.pointChecked
  repeat' (first | split | (dsimp only; split))
  all_goals simp (maxDischargeDepth := 8) [hinv]

/-- Relations of the ring: `pointReadDone`. -/
@[simp] theorem State.pointReadDone_ringInv {s : State} (c : PointCommand) (p : BitVec 8) (hinv : RingInv s.ring) :
    RingInv (s.pointReadDone c p).ring := by
  unfold State.pointReadDone
  repeat' (first | split | (dsimp only; split))
  all_goals simp (maxDischargeDepth := 8) [hinv]

/-- Relations of the ring: `reportDemand`. -/
@[simp] theorem State.reportDemand_ringInv {s : State} (d : Demand) (t : Option TrunkId) (o : OutcomeCode) (h : Nat) (hinv : RingInv s.ring) :
    RingInv (s.reportDemand d t o h).ring := by
  unfold State.reportDemand
  repeat' (first | split | (dsimp only; split))
  all_goals simp (maxDischargeDepth := 8) [hinv]

/-- Relations of the ring: `demandReport`. -/
@[simp] theorem State.demandReport_ringInv {s : State} (x : Transfer) (o : OutcomeCode) (hinv : RingInv s.ring) :
    RingInv (s.demandReport x o).ring := by
  unfold State.demandReport
  repeat' (first | split | (dsimp only; split))
  all_goals simp (maxDischargeDepth := 8) [hinv]

/-- `reportExpired` keeps the relations of the ring. -/
@[simp] theorem State.reportExpired_ringInv : ∀ (l : List Demand) {s : State}, RingInv s.ring →
    RingInv (s.reportExpired l).ring
  | [], _, h => h
  | _ :: rest, _, h => State.reportExpired_ringInv rest (State.reportDemand_ringInv _ _ _ _ h)

/-- Relations of the ring: `ageDemands`. -/
@[simp] theorem State.ageDemands_ringInv {s : State} (hinv : RingInv s.ring) :
    RingInv s.ageDemands.ring := by
  unfold State.ageDemands
  repeat' (first | split | (dsimp only; split))
  all_goals simp (maxDischargeDepth := 8) [hinv]

/-- Relations of the ring: `demandCancel`. -/
@[simp] theorem State.demandCancel_ringInv {s : State} (hinv : RingInv s.ring) :
    RingInv s.demandCancel.ring := by
  unfold State.demandCancel
  repeat' (first | split | (dsimp only; split))
  all_goals simp (maxDischargeDepth := 8) [hinv]

/-- Relations of the ring: `activate`. -/
@[simp] theorem State.activate_ringInv {s : State} (g : Geometry) (hinv : RingInv s.ring) :
    RingInv (s.activate g).ring := by
  unfold State.activate
  repeat' (first | split | (dsimp only; split))
  all_goals simp (maxDischargeDepth := 8) [hinv]

/-- Relations of the ring: `applyPending`. -/
@[simp] theorem State.applyPending_ringInv {s : State} (hinv : RingInv s.ring) :
    RingInv s.applyPending.ring := by
  unfold State.applyPending
  repeat' (first | split | (dsimp only; split))
  all_goals simp (maxDischargeDepth := 8) [hinv]

/-- Relations of the ring: `switchTo`. -/
@[simp] theorem State.switchTo_ringInv {s : State} (g : Geometry) (hinv : RingInv s.ring) :
    RingInv (s.switchTo g).ring := by
  unfold State.switchTo
  repeat' (first | split | (dsimp only; split))
  all_goals simp (maxDischargeDepth := 8) [hinv]

/-- Relations of the ring: `validated`. -/
@[simp] theorem State.validated_ringInv {s : State} (f : Bool) (b : Bank) (n : Nat) (hinv : RingInv s.ring) :
    RingInv (s.validated f b n).ring := by
  unfold State.validated
  repeat' (first | split | (dsimp only; split))
  all_goals simp (maxDischargeDepth := 8) [hinv]

/-- Relations of the ring: `validationDone`. -/
@[simp] theorem State.validationDone_ringInv {s : State} (f : Bool) (b : Bank) (n : Nat) (hinv : RingInv s.ring) :
    RingInv (s.validationDone f b n).ring := by
  unfold State.validationDone
  repeat' (first | split | (dsimp only; split))
  all_goals simp (maxDischargeDepth := 8) [hinv]

/-- Relations of the ring: `changeEngine`. -/
@[simp] theorem State.changeEngine_ringInv {s : State} (e : EngineState) (p : StopPoint) (c : Nat) (hinv : RingInv s.ring) :
    RingInv (s.changeEngine e p c).ring := by
  unfold State.changeEngine
  repeat' (first | split | (dsimp only; split))
  all_goals simp (maxDischargeDepth := 8) [hinv]

/-- Relations of the ring: `stopEngine`. -/
@[simp] theorem State.stopEngine_ringInv {s : State} (e : EngineState) (h : HaltCause) (c : Nat) (hinv : RingInv s.ring) :
    RingInv (s.stopEngine e h c).ring := by
  unfold State.stopEngine
  repeat' (first | split | (dsimp only; split))
  all_goals simp (maxDischargeDepth := 8) [hinv]

/-- Relations of the ring: `beginRound`. -/
@[simp] theorem State.beginRound_ringInv {s : State} (r : Nat) (hinv : RingInv s.ring) :
    RingInv (s.beginRound r).ring := by
  unfold State.beginRound
  repeat' (first | split | (dsimp only; split))
  all_goals simp (maxDischargeDepth := 8) [hinv]

/-- Relations of the ring: `beginSweep`. -/
@[simp] theorem State.beginSweep_ringInv {s : State} (hinv : RingInv s.ring) :
    RingInv s.beginSweep.ring := by
  unfold State.beginSweep
  repeat' (first | split | (dsimp only; split))
  all_goals simp (maxDischargeDepth := 8) [hinv]

/-- Relations of the ring: `sweepBoundary`. -/
@[simp] theorem State.sweepBoundary_ringInv {s : State} (hinv : RingInv s.ring) :
    RingInv s.sweepBoundary.ring := by
  unfold State.sweepBoundary
  repeat' (first | split | (dsimp only; split))
  all_goals simp (maxDischargeDepth := 8) [hinv]

/-- Relations of the ring: `endRound`. -/
@[simp] theorem State.endRound_ringInv {s : State} (hinv : RingInv s.ring) :
    RingInv s.endRound.ring := by
  unfold State.endRound
  repeat' (first | split | (dsimp only; split))
  all_goals simp (maxDischargeDepth := 8) [hinv]

/-- Relations of the ring: `afterSlot`. -/
@[simp] theorem State.afterSlot_ringInv {s : State} (hinv : RingInv s.ring) :
    RingInv s.afterSlot.ring := by
  unfold State.afterSlot
  repeat' (first | split | (dsimp only; split))
  all_goals simp (maxDischargeDepth := 8) [hinv]

/-- Relations of the ring: `endSlot`. -/
@[simp] theorem State.endSlot_ringInv {s : State} (hinv : RingInv s.ring) :
    RingInv s.endSlot.ring := by
  unfold State.endSlot
  repeat' (first | split | (dsimp only; split))
  all_goals simp (maxDischargeDepth := 8) [hinv]

/-- Relations of the ring: `reportNoTrunk`. -/
@[simp] theorem State.reportNoTrunk_ringInv {s : State} (hinv : RingInv s.ring) :
    RingInv s.reportNoTrunk.ring := by
  unfold State.reportNoTrunk
  repeat' (first | split | (dsimp only; split))
  all_goals simp (maxDischargeDepth := 8) [hinv]

/-- Relations of the ring: `overrun`. -/
@[simp] theorem State.overrun_ringInv {s : State} (hinv : RingInv s.ring) :
    RingInv s.overrun.ring := by
  unfold State.overrun
  repeat' (first | split | (dsimp only; split))
  all_goals simp (maxDischargeDepth := 8) [hinv]

/-- Relations of the ring: `timerExpired`. -/
@[simp] theorem State.timerExpired_ringInv {s : State} (hinv : RingInv s.ring) :
    RingInv s.timerExpired.ring := by
  unfold State.timerExpired
  repeat' (first | split | (dsimp only; split))
  all_goals simp (maxDischargeDepth := 8) [hinv]

/-- Relations of the ring: `faultReport`. -/
@[simp] theorem State.faultReport_ringInv {s : State} (x : Transfer) (o : OutcomeCode) (hinv : RingInv s.ring) :
    RingInv (s.faultReport x o).ring := by
  unfold State.faultReport
  repeat' (first | split | (dsimp only; split))
  all_goals simp (maxDischargeDepth := 8) [hinv]

/-- Relations of the ring: `transferReports`. -/
@[simp] theorem State.transferReports_ringInv {s : State} (x : Transfer) (o : OutcomeCode) (hinv : RingInv s.ring) :
    RingInv (s.transferReports x o).ring := by
  unfold State.transferReports
  repeat' (first | split | (dsimp only; split))
  all_goals simp (maxDischargeDepth := 8) [hinv]

/-- Relations of the ring: `endTransfer`. -/
@[simp] theorem State.endTransfer_ringInv {s : State} (x : Transfer) (o : OutcomeCode) (hinv : RingInv s.ring) :
    RingInv (s.endTransfer x o).ring := by
  unfold State.endTransfer
  repeat' (first | split | (dsimp only; split))
  all_goals simp (maxDischargeDepth := 8) [hinv]

/-- Relations of the ring: `retryOrEnd`. -/
@[simp] theorem State.retryOrEnd_ringInv {s : State} (x : Transfer) (o : OutcomeCode) (hinv : RingInv s.ring) :
    RingInv (s.retryOrEnd x o).ring := by
  unfold State.retryOrEnd
  repeat' (first | split | (dsimp only; split))
  all_goals simp (maxDischargeDepth := 8) [hinv]

/-- Relations of the ring: `turnOrEnd`. -/
@[simp] theorem State.turnOrEnd_ringInv {s : State} (x : Transfer) (o : OutcomeCode) (hinv : RingInv s.ring) :
    RingInv (s.turnOrEnd x o).ring := by
  unfold State.turnOrEnd
  repeat' (first | split | (dsimp only; split))
  all_goals simp (maxDischargeDepth := 8) [hinv]

/-- Relations of the ring: `afterAttempt`. -/
@[simp] theorem State.afterAttempt_ringInv {s : State} (x : Transfer) (o : OutcomeCode) (hinv : RingInv s.ring) :
    RingInv (s.afterAttempt x o).ring := by
  unfold State.afterAttempt
  repeat' (first | split | (dsimp only; split))
  all_goals simp (maxDischargeDepth := 8) [hinv]

/-- Relations of the ring: `attemptReports`. -/
@[simp] theorem State.attemptReports_ringInv {s : State} (x : Transfer) (o : OutcomeCode) (c : Option (BitVec 8)) (hinv : RingInv s.ring) :
    RingInv (s.attemptReports x o c).ring := by
  unfold State.attemptReports
  repeat' (first | split | (dsimp only; split))
  all_goals simp (maxDischargeDepth := 8) [hinv]

/-- Relations of the ring: `endAttempt`. -/
@[simp] theorem State.endAttempt_ringInv {s : State} (x : Transfer) (o : OutcomeCode) (c : Option (BitVec 8)) (hinv : RingInv s.ring) :
    RingInv (s.endAttempt x o c).ring := by
  unfold State.endAttempt
  repeat' (first | split | (dsimp only; split))
  all_goals simp (maxDischargeDepth := 8) [hinv]

/-- Relations of the ring: `echoEnd`. -/
@[simp] theorem State.echoEnd_ringInv {s : State} (x : Transfer) (u v : Word) (l : List Word) (e : Echo) (hinv : RingInv s.ring) :
    RingInv (s.echoEnd x u v l e).ring := by
  unfold State.echoEnd
  repeat' (first | split | (dsimp only; split))
  all_goals simp (maxDischargeDepth := 8) [hinv]

/-- Relations of the ring: `answerEnd`. -/
@[simp] theorem State.answerEnd_ringInv {s : State} (x : Transfer) (f : AnswerFrame) (hinv : RingInv s.ring) :
    RingInv (s.answerEnd x f).ring := by
  unfold State.answerEnd
  repeat' (first | split | (dsimp only; split))
  all_goals simp (maxDischargeDepth := 8) [hinv]

/-- Relations of the ring: `planFault`. -/
@[simp] theorem State.planFault_ringInv {s : State} (e : CheckFailure) (hinv : RingInv s.ring) :
    RingInv (s.planFault e).ring := by
  unfold State.planFault
  repeat' (first | split | (dsimp only; split))
  all_goals simp (maxDischargeDepth := 8) [hinv]

/-- Relations of the ring: `transferSlot`. -/
@[simp] theorem State.transferSlot_ringInv {s : State} (p : BitVec 8) (r : PointRecord) (n : Nat) (q : RetryPolicy) (hinv : RingInv s.ring) :
    RingInv (s.transferSlot p r n q).ring := by
  unfold State.transferSlot State.needTrunk
  repeat' (first | split | (dsimp only; split))
  all_goals simp (maxDischargeDepth := 8) [hinv]

/-- Relations of the ring: `takeDemand`. -/
@[simp] theorem State.takeDemand_ringInv {s : State} (hinv : RingInv s.ring) :
    RingInv s.takeDemand.ring := by
  unfold State.takeDemand
  repeat' (first | split | (dsimp only; split))
  all_goals simp (maxDischargeDepth := 8) [hinv]

/-- Relations of the ring: `openSlot`. -/
@[simp] theorem State.openSlot_ringInv {s : State} (hinv : RingInv s.ring) :
    RingInv s.openSlot.ring := by
  unfold State.openSlot State.needTrunk
  repeat' (first | split | (dsimp only; split))
  all_goals simp (maxDischargeDepth := 8) [hinv]

/-- Relations of the ring: `slotWork`. -/
@[simp] theorem State.slotWork_ringInv {s : State} (b : SlotStart) (n : Nat) (hinv : RingInv s.ring) :
    RingInv (s.slotWork b n).ring := by
  unfold State.slotWork State.needTrunk
  repeat' (first | split | (dsimp only; split))
  all_goals simp (maxDischargeDepth := 8) [hinv]

/-- Relations of the ring: `slotChecked`. -/
@[simp] theorem State.slotChecked_ringInv {s : State} (n : Nat) (hinv : RingInv s.ring) :
    RingInv (s.slotChecked n).ring := by
  unfold State.slotChecked
  repeat' (first | split | (dsimp only; split))
  all_goals simp (maxDischargeDepth := 8) [hinv]

/-- Relations of the ring: `slotReadDone`. -/
@[simp] theorem State.slotReadDone_ringInv {s : State} (n : Nat) (hinv : RingInv s.ring) :
    RingInv (s.slotReadDone n).ring := by
  unfold State.slotReadDone
  repeat' (first | split | (dsimp only; split))
  all_goals simp (maxDischargeDepth := 8) [hinv]

/-- Relations of the ring: `failDemand`. -/
@[simp] theorem State.failDemand_ringInv {s : State} (d : Demand) (c : Nat) (hinv : RingInv s.ring) :
    RingInv (s.failDemand d c).ring := by
  unfold State.failDemand
  repeat' (first | split | (dsimp only; split))
  all_goals simp (maxDischargeDepth := 8) [hinv]

/-- Relations of the ring: `needTrunkForDemand`. -/
@[simp] theorem State.needTrunkForDemand_ringInv {s : State} (d : Demand) (r : PointRecord) (n : Nat) (hinv : RingInv s.ring) :
    RingInv (s.needTrunkForDemand d r n).ring := by
  unfold State.needTrunkForDemand State.needTrunk
  repeat' (first | split | (dsimp only; split))
  all_goals simp (maxDischargeDepth := 8) [hinv]

/-- Relations of the ring: `demandChecked`. -/
@[simp] theorem State.demandChecked_ringInv {s : State} (n : Nat) (hinv : RingInv s.ring) :
    RingInv (s.demandChecked n).ring := by
  unfold State.demandChecked
  repeat' (first | split | (dsimp only; split))
  all_goals simp (maxDischargeDepth := 8) [hinv]

/-- Relations of the ring: `demandReadDone`. -/
@[simp] theorem State.demandReadDone_ringInv {s : State} (n : Nat) (hinv : RingInv s.ring) :
    RingInv (s.demandReadDone n).ring := by
  unfold State.demandReadDone
  repeat' (first | split | (dsimp only; split))
  all_goals simp (maxDischargeDepth := 8) [hinv]

/-- Relations of the ring: `start`. -/
@[simp] theorem State.start_ringInv {s : State} (hinv : RingInv s.ring) :
    RingInv s.start.ring := by
  unfold State.start
  repeat' (first | split | (dsimp only; split))
  all_goals simp (maxDischargeDepth := 8) [hinv]

/-- Relations of the ring: `stepRound`. -/
@[simp] theorem State.stepRound_ringInv {s : State} (hinv : RingInv s.ring) :
    RingInv s.stepRound.ring := by
  unfold State.stepRound
  repeat' (first | split | (dsimp only; split))
  all_goals simp (maxDischargeDepth := 8) [hinv]

/-- Relations of the ring: `stopRound`. -/
@[simp] theorem State.stopRound_ringInv {s : State} (hinv : RingInv s.ring) :
    RingInv s.stopRound.ring := by
  unfold State.stopRound
  repeat' (first | split | (dsimp only; split))
  all_goals simp (maxDischargeDepth := 8) [hinv]

/-- Relations of the ring: `stopSweep`. -/
@[simp] theorem State.stopSweep_ringInv {s : State} (hinv : RingInv s.ring) :
    RingInv s.stopSweep.ring := by
  unfold State.stopSweep
  repeat' (first | split | (dsimp only; split))
  all_goals simp (maxDischargeDepth := 8) [hinv]

/-- Relations of the ring: `clearHalt`. -/
@[simp] theorem State.clearHalt_ringInv {s : State} (hinv : RingInv s.ring) :
    RingInv s.clearHalt.ring := by
  unfold State.clearHalt
  repeat' (first | split | (dsimp only; split))
  all_goals simp (maxDischargeDepth := 8) [hinv]

/-- Relations of the ring: `abortSlot`. -/
@[simp] theorem State.abortSlot_ringInv {s : State} (hinv : RingInv s.ring) :
    RingInv s.abortSlot.ring := by
  unfold State.abortSlot
  repeat' (first | split | (dsimp only; split))
  all_goals simp (maxDischargeDepth := 8) [hinv]

/-- Relations of the ring: `abort`. -/
@[simp] theorem State.abort_ringInv {s : State} (hinv : RingInv s.ring) :
    RingInv s.abort.ring := by
  unfold State.abort
  repeat' (first | split | (dsimp only; split))
  all_goals simp (maxDischargeDepth := 8) [hinv]

/-- `resetRunTime` keeps the relations of the ring. -/
@[simp] theorem State.resetRunTime_ringInv {s : State} (h : RingInv s.ring) : RingInv s.resetRunTime.ring := Ring.emptied_keeps h

/-- Relations of the ring: `engineReset`. -/
@[simp] theorem State.engineReset_ringInv {s : State} (hinv : RingInv s.ring) :
    RingInv s.engineReset.ring := by
  unfold State.engineReset
  repeat' (first | split | (dsimp only; split))
  all_goals simp (maxDischargeDepth := 8) [hinv]

/-- Relations of the ring: `act`. -/
@[simp] theorem State.act_ringInv {s : State} (c : Word) (hinv : RingInv s.ring) :
    RingInv (s.act c).ring := by
  unfold State.act
  repeat' (first | split | (dsimp only; split))
  all_goals simp (maxDischargeDepth := 8) [hinv]

/-- Relations of the ring: `endValidation`. -/
@[simp] theorem State.endValidation_ringInv {s : State} (hinv : RingInv s.ring) :
    RingInv s.endValidation.ring := by
  unfold State.endValidation
  repeat' (first | split | (dsimp only; split))
  all_goals simp (maxDischargeDepth := 8) [hinv]

/-- Relations of the ring: `endPointRead`. -/
@[simp] theorem State.endPointRead_ringInv {s : State} (hinv : RingInv s.ring) :
    RingInv s.endPointRead.ring := by
  unfold State.endPointRead
  repeat' (first | split | (dsimp only; split))
  all_goals simp (maxDischargeDepth := 8) [hinv]

/-- Relations of the ring: `judgeBurst`. -/
@[simp] theorem State.judgeBurst_ringInv {s : State} (t : TrunkId) (e : Echo) (hinv : RingInv s.ring) :
    RingInv (s.judgeBurst t e).ring := by
  unfold State.judgeBurst
  repeat' (first | split | (dsimp only; split))
  all_goals simp (maxDischargeDepth := 8) [hinv]

/-- Relations of the ring: `failTraining`. -/
@[simp] theorem State.failTraining_ringInv {s : State} (t : TrunkId) (hinv : RingInv s.ring) :
    RingInv (s.failTraining t).ring := by
  unfold State.failTraining
  repeat' (first | split | (dsimp only; split))
  all_goals simp (maxDischargeDepth := 8) [hinv]

/-- Relations of the ring: `guardRunsOut`. -/
@[simp] theorem State.guardRunsOut_ringInv {s : State} (x : Transfer) (hinv : RingInv s.ring) :
    RingInv (s.guardRunsOut x).ring := by
  unfold State.guardRunsOut
  repeat' (first | split | (dsimp only; split))
  all_goals simp (maxDischargeDepth := 8) [hinv]

/-- A write to COMMAND keeps the relations of the ring. -/
@[simp] theorem State.takeCommand_ringInv {s : State} (c : Word) (act : State → State) (h : RingInv s.ring)
    (hact : ∀ u, RingInv u.ring → RingInv (act u).ring) : RingInv (s.takeCommand c act).ring := by
  rcases s.takeCommand_cases c act with e | e | ⟨_, _, e⟩ <;> rw [e]
  · exact h
  · exact h
  · exact hact _ h

/-- A host access keeps the relations of the ring (R148, R150, R157). -/
@[simp] theorem State.hostAccess_ringInv {s : State} (a : HostAddress) (x : Access) (h : RingInv s.ring) :
    RingInv (s.hostAccess a x).ring := by
  unfold State.hostAccess State.registerAccess State.writeRegister State.judge
  repeat' split
  all_goals first
    | exact State.takeCommand_ringInv _ _ h (fun _ hu => State.act_ringInv _ hu)
    | exact State.writeRingBase_ringInv _ h
    | exact State.writeRingSize_ringInv _ h
    | exact State.writeReadIndex_ringInv _ h
    | (rename_i hr
       simp only [inRange, Bool.and_eq_true, decide_eq_true_eq] at hr
       exact
         { sizeLow := h.sizeLow, sizeHigh := h.sizeHigh, fits := h.fits, readIndexInRing := h.readIndexInRing
           writeIndexInRing := h.writeIndexInRing, reservedAtMost := h.reservedAtMost
           roomUnlessDropping := h.roomUnlessDropping, droppedOnlyWhileDropping := h.droppedOnlyWhileDropping
           droppedSaturates := h.droppedSaturates, watermarkLow := hr.1, watermarkHigh := hr.2 })
    | exact
        { sizeLow := h.sizeLow, sizeHigh := h.sizeHigh, fits := h.fits, readIndexInRing := h.readIndexInRing
          writeIndexInRing := h.writeIndexInRing, reservedAtMost := h.reservedAtMost
          roomUnlessDropping := h.roomUnlessDropping, droppedOnlyWhileDropping := h.droppedOnlyWhileDropping
          droppedSaturates := h.droppedSaturates, watermarkLow := h.watermarkLow, watermarkHigh := h.watermarkHigh }
    | simpa using h

end Sys2Proof.Machine
end

