-- ==== Sys2Proof/Laws/Registers.lean ====
section
/-! SUPPORT. The registers that hold a setting, the point runtime entries and the Command Unit: what each operation that
writes them keeps of the relations of R1 to R143, R101 and R173. -/

namespace Sys2Proof.Machine

open Safety

/-! ## Settings -/

/-- What an accepted word satisfies. -/
theorem inRange_bounds {v : Word} {low high : Nat} (h : inRange v low high = true) : low ≤ v.toNat ∧ v.toNat ≤ high := by
  simpa [inRange] using h

/-- An accepted or refused write keeps the ranges if the stored value does. -/
theorem State.judge_settings {s t : State} {accepted : Bool} {a : HostAddress} {e : HostError} (h : SettingsInv s.set)
    (ht : accepted = true → SettingsInv t.set) : SettingsInv (s.judge accepted a e t).set := by
  unfold State.judge
  split
  · rename_i ha
    exact ht ha
  · exact h

/-- A command leaves every setting alone. -/
theorem State.writeCommand_settings (s : State) (c : Word) : (s.writeCommand c).set = s.set := by
  unfold State.writeCommand
  rcases s.takeCommand_cases c (fun s => s.act c) with e | e | ⟨_, _, e⟩ <;> rw [e]
  · simp
  · simp

/-- A host access keeps every setting in its range (R1, R42, R55, R79, R81, R99, R102, R142, R143). -/
theorem State.hostAccess_settings {s : State} (a : HostAddress) (x : Access) (h : SettingsInv s.set) :
    SettingsInv (s.hostAccess a x).set := by
  unfold State.hostAccess State.registerAccess State.writeRegister
  repeat' split
  all_goals first
    | exact h
    | (rw [State.writeCommand_settings]; exact h)
    | (unfold State.writeTrunkRate
       split
       · exact h
       · rename_i hv
         exact State.judge_settings h (fun _ => { h with trunkRate := Nat.le_of_not_lt hv }))
    | exact State.judge_settings h (fun ha => { h with planABase := (inRange_bounds ha).2 })
    | exact State.judge_settings h (fun ha => { h with planBBase := (inRange_bounds ha).2 })
    | exact State.judge_settings h (fun ha => { h with demandRetries := (inRange_bounds ha).2 })
    | exact State.judge_settings h (fun ha => { h with occupancyGuard := (inRange_bounds ha).2 })
    | exact State.judge_settings h (fun ha => { h with pointSelect := (inRange_bounds ha).2 })
    | exact State.judge_settings h (fun ha =>
        { h with stationSelectLow := (inRange_bounds ha).1, stationSelectHigh := (inRange_bounds ha).2 })
    | exact State.judge_settings h (fun ha =>
        { h with suspectAfterLow := (inRange_bounds ha).1, suspectAfterHigh := (inRange_bounds ha).2 })
    | exact State.judge_settings h (fun ha =>
        { h with absentAfterLow := (inRange_bounds ha).1, absentAfterHigh := (inRange_bounds ha).2 })
    | exact State.judge_settings h (fun ha =>
        { h with confirmCountLow := (inRange_bounds ha).1, confirmCountHigh := (inRange_bounds ha).2 })
    | exact State.judge_settings h (fun ha =>
        { h with probeIntervalLow := (inRange_bounds ha).1, probeIntervalHigh := (inRange_bounds ha).2 })
    | exact State.judge_settings h (fun ha =>
        { h with trainingTimeoutLow := (inRange_bounds ha).1, trainingTimeoutHigh := (inRange_bounds ha).2 })
    | exact State.judge_settings h (fun ha =>
        { h with trunkFaultLimitLow := (inRange_bounds ha).1, trunkFaultLimitHigh := (inRange_bounds ha).2 })
    | exact State.judge_settings h (fun ha => { h with pointsInRam := of_decide_eq_true ha })
    | (refine State.judge_settings h (fun ha => ?_)
       rw [Bool.and_eq_true] at ha
       exact
         { h with
           pointCountLow := (inRange_bounds ha.1).1, pointCountHigh := (inRange_bounds ha.1).2
           pointsInRam := of_decide_eq_true ha.2 })
    | exact State.judge_settings h (fun _ => h)
    | exact { h with }
    | (simp; exact h)

/-! ## Point entries -/

/-- An entry replaced by one that keeps the relation. -/
theorem State.setPoint_pointsInv {s : State} {p : BitVec 8} {e : PointEntry} (h : PointsInv s)
    (he : e.pending = true → e.hold = true) : PointsInv (s.setPoint p e) := by
  intro q
  by_cases hq : q = p
  · subst hq
    simpa using he
  · rw [State.point_setPoint_other _ _ hq]
    exact h q

end Sys2Proof.Machine
end

