-- ==== Sys2Proof/Laws/Stations.lean ====
section
/-! SUPPORT. The station table: each change of a record keeps the relations of R77. -/

namespace Sys2Proof.Machine

open Safety

/-! ## One record -/

/-- A record whose state and counts are those of another. -/
theorem Station.inv_congr {r u : Station} (h : StationInv r) (hs : u.state = r.state) (hf : u.failureRun = r.failureRun)
    (hc : u.confirmCount = r.confirmCount) : StationInv u where
  failureRunAtMost := by rw [hf]; exact h.failureRunAtMost
  failureRunWhileCalled := by rw [hf, hs]; exact h.failureRunWhileCalled
  confirmCountWhileConfirming := by rw [hc, hs]; exact h.confirmCountWhileConfirming
  suspectHasFailed := by rw [hs, hf]; exact h.suspectHasFailed

/-- A record with both counts 0 that is not SUSPECT. -/
theorem Station.inv_zero {r : Station} (hf : r.failureRun = 0) (hc : r.confirmCount = 0) (hs : r.state ≠ .suspect) :
    StationInv r where
  failureRunAtMost := by rw [hf]; exact Nat.zero_le _
  failureRunWhileCalled := fun h => absurd hf h
  confirmCountWhileConfirming := fun h => absurd hc h
  suspectHasFailed := fun h => absurd h hs

/-- A record that is ABSENT or CONFIRMING has no failure run. -/
theorem Station.failureRun_zero {r : Station} (h : StationInv r) (hs : r.state.called = false) : r.failureRun = 0 := by
  by_cases hf : r.failureRun = 0
  · exact hf
  · exact absurd (h.failureRunWhileCalled hf) (by simp [hs])

/-- A failed call (R87). -/
theorem Station.failed_inv {r : Station} (a b : Nat) (h : StationInv r) (hs : r.state.called = true) :
    StationInv (r.failed a b) := by
  have hc : r.confirmCount = 0 := by
    by_cases hc : r.confirmCount = 0
    · exact hc
    · rw [h.confirmCountWhileConfirming hc] at hs
      exact absurd hs (by decide)
  unfold Station.failed
  dsimp only
  repeat' split
  · exact Station.inv_zero rfl hc (by simp)
  · exact
      { failureRunAtMost := Nat.min_le_right _ _, failureRunWhileCalled := fun _ => rfl
        confirmCountWhileConfirming := fun e => absurd hc e
        suspectHasFailed := fun _ => by dsimp only; omega }
  · exact
      { failureRunAtMost := Nat.min_le_right _ _, failureRunWhileCalled := fun _ => hs
        confirmCountWhileConfirming := fun e => absurd hc e
        suspectHasFailed := fun _ => by dsimp only; omega }

/-- A POINT transfer's end (R73, R85 to R88). -/
theorem Station.afterPoint_inv {r : Station} (o : OutcomeCode) (t : TrunkId) (a b : Nat) (h : StationInv r) :
    StationInv ((r.delivered o t).afterPoint o a b) := by
  have hd : StationInv (r.delivered o t) := by
    unfold Station.delivered
    split
    · exact Station.inv_congr h rfl rfl rfl
    · exact h
  have hc : (r.delivered o t).state.called = true → (r.delivered o t).confirmCount = 0 := by
    intro hs
    by_cases hc : (r.delivered o t).confirmCount = 0
    · exact hc
    · rw [hd.confirmCountWhileConfirming hc] at hs
      exact absurd hs (by decide)
  unfold Station.afterPoint
  split
  · exact hd
  · rename_i hs
    simp only [Bool.not_eq_true', Bool.not_eq_false] at hs
    repeat' split
    · exact Station.inv_zero rfl (hc hs) (by simp)
    · exact Station.failed_inv a b hd hs
    · exact Station.inv_zero rfl rfl (by simp)
    · exact hd

/-- A confirmed probe (R92). -/
theorem Station.confirmed_inv {r : Station} (w : Word) (b : Bool) (n : Nat) (h : StationInv r)
    (hs : r.state.called = false) : StationInv (r.confirmed w b n) := by
  have hf := Station.failureRun_zero h hs
  unfold Station.confirmed
  dsimp only
  split
  · exact Station.inv_zero rfl rfl (by simp)
  · exact
      { failureRunAtMost := by dsimp only; omega, failureRunWhileCalled := fun e => absurd hf e
        confirmCountWhileConfirming := fun _ => rfl, suspectHasFailed := fun e => absurd e (by simp) }

/-- A probe of a mismatching identity (R93). -/
theorem Station.mismatched_inv {r : Station} (w : Word) (n : Nat) (h : StationInv r) (hs : r.state.called = false) :
    StationInv (r.mismatched w n) :=
  Station.inv_zero (r := r.mismatched w n) (Station.failureRun_zero (r := r) h hs) rfl (by simp [Station.mismatched])

/-- A failed probe (R94). -/
theorem Station.probeFailed_inv {r : Station} (h : StationInv r) (hs : r.state.called = false) :
    StationInv r.probeFailed :=
  Station.inv_zero (r := r.probeFailed) (Station.failureRun_zero (r := r) h hs) rfl (by simp [Station.probeFailed])

/-- ENGINE RESET on a record (R97). -/
theorem Station.engineReset_inv {r : Station} (h : StationInv r) : StationInv r.engineReset := by
  unfold Station.engineReset
  split
  · exact h
  · exact Station.inv_zero rfl rfl (by simp)

/-- Ageing (R91). -/
theorem Station.aged_inv {r : Station} (h : StationInv r) : StationInv r.aged := by
  unfold Station.aged
  split
  · exact Station.inv_congr h rfl rfl rfl
  · exact h

/-- A probe issued (R90). -/
theorem Station.probed_inv {r : Station} (n : Nat) (h : StationInv r) : StationInv (r.probed n) := by
  unfold Station.probed
  split
  · exact Station.inv_congr h rfl rfl rfl
  · exact h

/-- The reset record (R77). -/
theorem Station.reset_inv : StationInv .reset := Station.inv_zero rfl rfl (by simp [Station.reset])

/-! ## The table -/

end Sys2Proof.Machine

namespace Sys2Proof.Safety

open Machine

/-- States with the same table. -/
theorem StationsInv.congr {s u : State} (h : StationsInv s) (e : u.stations = s.stations) : StationsInv u := by
  intro n
  rw [State.station_congr e]
  exact h n

end Sys2Proof.Safety

namespace Sys2Proof.Machine

open Safety

/-- One record replaced. -/
theorem State.setStation_stations {s : State} (h : StationsInv s) (n : Nat) {r : Station} (hr : StationInv r) :
    StationsInv (s.setStation n r) := by
  intro m
  rw [State.station_setStation_any]
  split
  · exact hr
  · exact h m

/-- Every record changed in one way. -/
theorem State.mapStations {s u : State} {f : Station → Station} (e : u.stations = s.stations.map f) {n : Nat}
    (hn : isStation n) : u.station n = f (s.station n) := by
  rw [State.station_of _ hn, State.station_of _ hn]
  simp only [e]
  exact Vector.getElem_map _ _

/-- Every record changed in one way that keeps the relations. -/
theorem State.mapStations_inv {s u : State} {f : Station → Station} (h : StationsInv s) (e : u.stations = s.stations.map f)
    (hf : ∀ r, StationInv r → StationInv (f r)) : StationsInv u := by
  intro n
  by_cases hn : isStation n
  · rw [State.mapStations e hn]
    exact hf _ (h n)
  · rw [State.station_none _ hn]
    exact Station.reset_inv

/-- A table of reset records. -/
theorem stationsInv_of_reset {u : State} (e : u.stations = Vector.replicate 62 .reset) : StationsInv u := by
  intro n
  by_cases hn : isStation n
  · rw [State.station_of _ hn]
    simp only [e]
    rw [Vector.getElem_replicate]
    exact Station.reset_inv
  · rw [State.station_none _ hn]
    exact Station.reset_inv

/-! ## The operations on the table -/

/-- STATION ENABLE (R82). -/
theorem State.stationEnable_stationsInv {s : State} (h : StationsInv s) : StationsInv s.stationEnable := by
  unfold State.stationEnable
  repeat' (first | split | (dsimp only; split))
  · refine (State.setStation_stations h _ ?_).congr rfl
    exact Station.inv_zero rfl rfl (by simp [Station.enabled])
  · exact h.congr rfl
  · exact h.congr rfl

/-- STATION DISABLE (R83). -/
theorem State.stationDisable_stationsInv {s : State} (h : StationsInv s) : StationsInv s.stationDisable := by
  unfold State.stationDisable
  repeat' (first | split | (dsimp only; split))
  · exact h.congr rfl
  · exact h.congr rfl
  · rename_i n _ _
    refine (State.setStation_stations h n (r := (s.station n).disabled) ?_).congr (by simp)
    exact Station.inv_zero rfl rfl (by simp [Station.disabled])

/-- The report of a POINT transfer (R85 to R88). -/
theorem State.pointHealth_stationsInv {s : State} (x : Transfer) (o : OutcomeCode) (h : StationsInv s) :
    StationsInv (s.pointHealth x o) := by
  unfold State.pointHealth
  dsimp only
  exact (State.setStation_stations h x.station
    (Station.afterPoint_inv o x.trunk s.set.suspectAfter.toNat s.set.absentAfter.toNat (h x.station))).congr (by simp)

/-- The report of a PROBE transfer (R92 to R94). -/
theorem State.probeHealth_stationsInv {s : State} (x : Transfer) (o : OutcomeCode) (h : StationsInv s) :
    StationsInv (s.probeHealth x o) := by
  unfold State.probeHealth
  dsimp only
  split
  · exact h
  · rename_i hs
    have hs' : (s.station x.station).state.called = false := by
      cases hst : (s.station x.station).state <;> simp_all [StationState.called]
    have hc := State.setStation_stations h x.station
      (Station.confirmed_inv x.heardIdentity x.reportedToggle s.set.confirmCount.toNat (h x.station) hs')
    have hm := State.setStation_stations h x.station
      (Station.mismatched_inv x.heardIdentity s.set.probeInterval.toNat (h x.station) hs')
    have hp := State.setStation_stations h x.station (Station.probeFailed_inv (h x.station) hs')
    repeat' split
    · exact hc.congr (by simp)
    · exact hm.congr (by simp)
    · exact hm.congr (by simp)
    · exact hp.congr (by simp)
    · exact h

/-- Step 3 of a transfer's end (R71, R73). -/
theorem State.stationReport_stationsInv {s : State} (x : Transfer) (o : OutcomeCode) (h : StationsInv s) :
    StationsInv (s.stationReport x o) := by
  unfold State.stationReport
  repeat' split
  · exact h
  · exact State.pointHealth_stationsInv x o h
  · exact State.probeHealth_stationsInv x o h
  · exact h
  · exact h

/-- The condition byte of an answer (R95). -/
theorem State.conditionReport_stationsInv {s : State} (x : Transfer) (o : OutcomeCode) (c : BitVec 8)
    (h : StationsInv s) : StationsInv (s.conditionReport x o c) := by
  have hr : StationInv { s.station x.station with lastCondition := c } := Station.inv_congr (h x.station) rfl rfl rfl
  unfold State.conditionReport
  dsimp only
  split
  · exact h
  · refine State.setStation_stations (h.congr ?_) x.station hr
    repeat' split
    all_goals simp

/-- The round-start notice (R91). -/
theorem State.ageStations_stationsInv {s : State} (h : StationsInv s) : StationsInv s.ageStations :=
  State.mapStations_inv h rfl (fun _ => Station.aged_inv)

/-- The run-time reset (R97). -/
theorem State.resetRunTime_stationsInv {s : State} (h : StationsInv s) : StationsInv s.resetRunTime :=
  State.mapStations_inv h rfl (fun _ => Station.engineReset_inv)

/-- A probe handed over (R90). -/
theorem State.handOverProbe_stationsInv {s : State} (p : BitVec 8) (r : PointRecord) (n : Nat) (q : RetryPolicy)
    (h : StationsInv s) : StationsInv (s.handOverProbe p r n q) :=
  (State.setStation_stations (h.congr (u := s.enterTransfer) rfl) r.station
    (Station.probed_inv s.set.probeInterval.toNat (h r.station))).congr rfl

/-- A configuration write (R80). -/
theorem State.writeStation_stationsInv {s : State} (w : StationWord) (v : Word) (h : StationsInv s) :
    StationsInv (s.writeStation w v) := by
  unfold State.writeStation
  dsimp only
  repeat' split
  · exact h.congr rfl
  · exact State.setStation_stations h _ (Station.inv_congr (h _) rfl rfl rfl)
  · exact State.setStation_stations h _ (Station.inv_congr (h _) rfl rfl rfl)
  · exact h.congr rfl

/-- A round begins (R32). -/
theorem State.beginRound_stationsInv {s : State} (r : Nat) (h : StationsInv s) : StationsInv (s.beginRound r) := by
  unfold State.beginRound
  dsimp only
  have ha := State.ageStations_stationsInv
    (h.congr (u := { s with eng := { s.eng with round := r, timer := .running ((s.eng.active.map (·.roundPeriod)).getD 0 * 10) } }) rfl)
  split
  · exact ha.congr (by simp)
  · exact ha.congr (by simp)

/-- A sweep begins (R38). -/
theorem State.beginSweep_stationsInv {s : State} (h : StationsInv s) : StationsInv s.beginSweep :=
  State.beginRound_stationsInv 0 (h.congr rfl)

/-- The table is kept by `sweepBoundary`. -/
theorem State.sweepBoundary_stationsInv {s : State} (hinv : StationsInv s) :
    StationsInv s.sweepBoundary := by
  unfold State.sweepBoundary
  dsimp only
  split
  · exact hinv.congr (by simp)
  · exact State.beginSweep_stationsInv (hinv.congr (by simp))

/-- The table is kept by `endRound`. -/
theorem State.endRound_stationsInv {s : State} (hinv : StationsInv s) :
    StationsInv s.endRound := by
  unfold State.endRound
  repeat' split
  · exact State.sweepBoundary_stationsInv hinv
  · exact hinv.congr (by simp)
  · exact State.beginRound_stationsInv _ hinv

/-- The table is kept by `afterSlot`. -/
theorem State.afterSlot_stationsInv {s : State} (hinv : StationsInv s) :
    StationsInv s.afterSlot := by
  unfold State.afterSlot
  repeat' split
  · exact hinv.congr (by simp)
  · exact State.endRound_stationsInv hinv
  · exact hinv.congr (by simp)
  · exact State.endRound_stationsInv hinv
  · exact hinv

/-- The table is kept by `endSlot`. -/
theorem State.endSlot_stationsInv {s : State} (hinv : StationsInv s) :
    StationsInv s.endSlot := by
  unfold State.endSlot
  exact State.afterSlot_stationsInv (hinv.congr rfl)

/-- The table is kept by `overrun`. -/
theorem State.overrun_stationsInv {s : State} (hinv : StationsInv s) :
    StationsInv s.overrun := by
  unfold State.overrun
  repeat' (first | split | (dsimp only; split))
  all_goals first
    | (refine hinv.congr ?_; simp; done)
    | exact State.endSlot_stationsInv (hinv.congr (by simp))

/-- The table is kept by `timerExpired`. -/
theorem State.timerExpired_stationsInv {s : State} (hinv : StationsInv s) :
    StationsInv s.timerExpired := by
  unfold State.timerExpired
  split
  · exact State.endRound_stationsInv hinv
  · exact State.overrun_stationsInv hinv

/-- The table is kept by `transferReports`. -/
theorem State.transferReports_stationsInv {s : State} (x : Transfer) (o : OutcomeCode) (hinv : StationsInv s) :
    StationsInv (s.transferReports x o) := by
  unfold State.transferReports
  exact (State.stationReport_stationsInv x o (hinv.congr (u := (s.pointReport x o).faultReport x o) (by simp))).congr
    (by simp)

/-- The table is kept by `endTransfer`. -/
theorem State.endTransfer_stationsInv {s : State} (x : Transfer) (o : OutcomeCode) (hinv : StationsInv s) :
    StationsInv (s.endTransfer x o) := by
  unfold State.endTransfer
  refine State.endSlot_stationsInv ?_
  split
  · exact (State.transferReports_stationsInv x o hinv).congr (by simp)
  · exact State.transferReports_stationsInv x o hinv

/-- The table is kept by `afterAttempt`. -/
theorem State.afterAttempt_stationsInv {s : State} (x : Transfer) (o : OutcomeCode) (hinv : StationsInv s) :
    StationsInv (s.afterAttempt x o) := by
  unfold State.afterAttempt State.retryOrEnd State.turnOrEnd
  repeat' split
  all_goals first
    | (refine hinv.congr ?_; simp; done)
    | exact State.endTransfer_stationsInv _ _ hinv

/-- The table is kept by `attemptReports`. -/
theorem State.attemptReports_stationsInv {s : State} (x : Transfer) (o : OutcomeCode) (c : Option (BitVec 8)) (hinv : StationsInv s) :
    StationsInv (s.attemptReports x o c) := by
  unfold State.attemptReports
  split
  · exact State.conditionReport_stationsInv _ _ _ (hinv.congr (by simp))
  · exact hinv.congr (by simp)

/-- The table is kept by `endAttempt`. -/
theorem State.endAttempt_stationsInv {s : State} (x : Transfer) (o : OutcomeCode) (c : Option (BitVec 8)) (hinv : StationsInv s) :
    StationsInv (s.endAttempt x o c) := by
  unfold State.endAttempt
  exact State.afterAttempt_stationsInv _ _ ((State.attemptReports_stationsInv (x.withOutcome o) o c hinv).congr (by simp))

/-- The table is kept by `echoEnd`. -/
theorem State.echoEnd_stationsInv {s : State} (x : Transfer) (u v : Word) (l : List Word) (e : Echo) (hinv : StationsInv s) :
    StationsInv (s.echoEnd x u v l e) := by
  unfold State.echoEnd
  dsimp only
  repeat' split
  all_goals first
    | (refine hinv.congr ?_; simp; done)
    | exact State.endAttempt_stationsInv _ _ _ (hinv.congr (by simp))

/-- The table is kept by `guardRunsOut`. -/
theorem State.guardRunsOut_stationsInv {s : State} (x : Transfer) (hinv : StationsInv s) :
    StationsInv (s.guardRunsOut x) := State.endAttempt_stationsInv _ _ _ hinv

/-- The table is kept by `transferSlot`. -/
theorem State.transferSlot_stationsInv {s : State} (p : BitVec 8) (r : PointRecord) (n : Nat) (q : RetryPolicy) (hinv : StationsInv s) :
    StationsInv (s.transferSlot p r n q) := by
  unfold State.transferSlot State.needTrunk
  repeat' split
  all_goals first
    | (refine hinv.congr ?_; simp; done)
    | exact State.endSlot_stationsInv (hinv.congr (by simp))
    | exact State.handOverProbe_stationsInv _ _ _ _ hinv

/-- The table is kept by `takeDemand`. -/
theorem State.takeDemand_stationsInv {s : State} (hinv : StationsInv s) :
    StationsInv s.takeDemand := by
  unfold State.takeDemand
  repeat' split
  all_goals first
    | (refine hinv.congr ?_; simp; done)
    | exact State.endSlot_stationsInv (hinv.congr (by simp))
    | exact State.handOverProbe_stationsInv _ _ _ _ hinv

/-- The table is kept by `openSlot`. -/
theorem State.openSlot_stationsInv {s : State} (hinv : StationsInv s) :
    StationsInv s.openSlot := by
  unfold State.openSlot State.needTrunk
  repeat' split
  all_goals first
    | (refine hinv.congr ?_; simp; done)
    | exact State.takeDemand_stationsInv hinv
    | exact State.endSlot_stationsInv (hinv.congr (by simp))

/-- The table is kept by `slotWork`. -/
theorem State.slotWork_stationsInv {s : State} (b : SlotStart) (n : Nat) (hinv : StationsInv s) :
    StationsInv (s.slotWork b n) := by
  unfold State.slotWork State.needTrunk
  repeat' split
  all_goals first
    | (refine hinv.congr ?_; simp; done)
    | exact State.transferSlot_stationsInv _ _ _ _ hinv
    | exact State.openSlot_stationsInv hinv
    | exact State.endSlot_stationsInv (hinv.congr (by simp))

/-- The table is kept by `slotChecked`. -/
theorem State.slotChecked_stationsInv {s : State} (n : Nat) (hinv : StationsInv s) : StationsInv (s.slotChecked n) := by
  unfold State.slotChecked State.planFault
  repeat' split
  · exact State.endSlot_stationsInv (hinv.congr (by simp))
  · exact State.slotWork_stationsInv _ _ (hinv.congr (by simp))
  · exact State.endSlot_stationsInv (hinv.congr (by simp))

/-- The table is kept by `slotReadDone`. -/
theorem State.slotReadDone_stationsInv {s : State} (n : Nat) (hinv : StationsInv s) : StationsInv (s.slotReadDone n) :=
  State.slotChecked_stationsInv n (hinv.congr (by simp))

/-- The table is kept by `demandChecked`. -/
theorem State.demandChecked_stationsInv {s : State} (n : Nat) (hinv : StationsInv s) :
    StationsInv (s.demandChecked n) := by
  unfold State.demandChecked State.failDemand State.needTrunkForDemand State.needTrunk State.handOverDemand
  repeat' (first | split | (dsimp only; split))
  all_goals first
    | (refine hinv.congr ?_; simp; done)
    | exact State.endSlot_stationsInv (hinv.congr (by simp))

/-- The table is kept by `demandReadDone`. -/
theorem State.demandReadDone_stationsInv {s : State} (n : Nat) (hinv : StationsInv s) :
    StationsInv (s.demandReadDone n) := State.demandChecked_stationsInv n (hinv.congr (by simp))

/-- The table is kept by START and STEP (R25, R26). -/
theorem State.start_stationsInv {s : State} (hinv : StationsInv s) : StationsInv s.start := by
  unfold State.start
  repeat' split
  all_goals first
    | (refine hinv.congr ?_; simp; done)
    | exact (State.beginSweep_stationsInv (hinv.congr (u := s.changeEngine .running .none engineCauseStart) (by simp))).congr
        (by simp)

/-- STEP (R26). -/
theorem State.stepRound_stationsInv {s : State} (hinv : StationsInv s) : StationsInv s.stepRound := by
  unfold State.stepRound
  repeat' split
  all_goals first
    | (refine hinv.congr ?_; simp; done)
    | exact (State.beginSweep_stationsInv (hinv.congr (u := s.changeEngine .draining .roundEnd engineCauseStep)
        (by simp))).congr (by simp)

/-- ABORT (R29). -/
theorem State.abort_stationsInv {s : State} (hinv : StationsInv s) : StationsInv s.abort := by
  have hs : StationsInv s.abortSlot := by
    unfold State.abortSlot
    repeat' split
    · exact State.transferReports_stationsInv _ _ (hinv.congr (by simp))
    · exact hinv.congr (by simp)
    · exact hinv
  unfold State.abort
  repeat' (first | split | (dsimp only; split))
  all_goals first
    | (refine hs.congr ?_; simp; done)
    | (refine hinv.congr ?_; simp; done)

/-- ENGINE RESET (R97). -/
theorem State.engineReset_stationsInv {s : State} (hinv : StationsInv s) : StationsInv s.engineReset := by
  unfold State.engineReset
  split <;> exact (State.resetRunTime_stationsInv hinv).congr (by simp)

/-- Every command of Table 11-5. -/
theorem State.act_stationsInv {s : State} (c : Word) (hinv : StationsInv s) : StationsInv (s.act c) := by
  unfold State.act
  split
  all_goals first
    | (refine hinv.congr ?_; simp; done)
    | exact State.start_stationsInv hinv
    | exact State.stepRound_stationsInv hinv
    | exact State.abort_stationsInv hinv
    | exact State.engineReset_stationsInv hinv
    | exact State.stationEnable_stationsInv hinv
    | exact State.stationDisable_stationsInv hinv

/-- A write to COMMAND. -/
theorem State.takeCommand_stationsInv {s : State} (c : Word) {act : State → State} (h : StationsInv s)
    (hact : ∀ u, StationsInv u → StationsInv (act u)) : StationsInv (s.takeCommand c act) := by
  rcases s.takeCommand_cases c act with e | e | ⟨_, _, e⟩ <;> rw [e]
  · exact h
  · exact h.congr rfl
  · exact hact _ (h.congr rfl)

/-- A host access (R80). -/
theorem State.hostAccess_stationsInv {s : State} (a : HostAddress) (x : Access) (h : StationsInv s) :
    StationsInv (s.hostAccess a x) := by
  unfold State.hostAccess State.registerAccess State.writeRegister State.judge
  repeat' split
  all_goals first
    | (refine h.congr ?_; simp; done)
    | exact State.takeCommand_stationsInv _ h (fun _ hu => State.act_stationsInv _ hu)
    | exact State.writeStation_stationsInv _ _ h

end Sys2Proof.Machine
end

