-- ==== Sys2Proof/Tests/Slice0.lean ====
section
/-! SUPPORT. Tests: ill-formed commands that the check refuses, steps against the manual's worked examples, and for
every statement with hypotheses a witness that meets them, clause by clause at the ends of the ranges. In a witness's
state nothing waits for the arbiter, so that it is its own `s₀` (`own_served`). -/

namespace Sys2Proof.Tests

-- One test at a time: elaborated side by side, each would keep a thread of its own waiting for the kernel.
set_option Elab.async false

open Machine Safety

/-! ## Small states -/

/-- What a command answers; the state itself where it answers none. -/
def after (c : Instr) (s : State) : State :=
  match exec c s with
  | .next t => t
  | .fault _ => s
  | .refused _ => s

/-- Nothing waits for the arbiter: no read of records goes on and no word of a record is to be stored. -/
def own (s : State) : Bool := !s.engineAsks && !s.commandAsks && !s.writerAsks

/-- A state in which nothing waits is its own state after the grants before a command. -/
theorem own_served {s : State} (h : own s = true) : s = s.served := by
  simp only [own, Bool.and_eq_true, Bool.not_eq_true'] at h
  exact (State.served_of_idle h.1.1 h.1.2 h.2).symm

/-- The kept geometry of the example plan (Table 1-11), corrected. -/
def plan (policy : OverrunPolicy) : Geometry :=
  { bank := .a, base := 2000, roundCount := 2, roundPeriod := 100, answerWindow := 20, policy, slotTotal := 5
    directory := [{ first := 0, count := 3 }, { first := 3, count := 2 }] }

/-- An engine on the example plan. -/
def engine (state : EngineState) (phase : SlotPhase) (timer : RoundTimer) : Engine :=
  { Engine.reset with
    state, phase, timer, active := some (plan .late)
    stop := if state = .draining then .roundEnd else .none
    halt := if state = .halted then .overrun else .none }

/-- The part with the engine in a state, no slot in progress. -/
def inState (state : EngineState) : State := { State.reset with eng := engine state .none (.running 7) }

/-- A READY trunk interface. -/
def readyTrunk : Trunk := { Trunk.reset with state := .ready, training := 4 }

/-- A trunk interface in TRAINING, with a burst on the line or waiting. -/
def trainingTrunk (burst : BurstPhase) : Trunk :=
  { Trunk.reset with state := .training, timer := some 90, burstDue := some 1000, burst }

/-- Point 4 of the example: a READ of six words from station 12. -/
def point4 : PointRecord :=
  { function := .read, station := 12, report := true, notify := true, sendOnCommit := false, objectIndex := 5
    outLength := 0, inLength := 6, inPage0 := 6000, inPage1 := 6006, outPage0 := 0, outPage1 := 0 }

/-- A transfer in progress on trunk A. -/
def transfer (kind : TransferKind) (demandTag : Option (BitVec 8)) (phase : AttemptPhase) : Transfer :=
  { kind, demandTag, point := 4, values := if kind = .sync then none else some point4
    station := if kind = .broadcast ∨ kind = .sync then 63 else 12
    allowed := 2, policy := .alternate, toggle := true, attempts := 1, trunk := .a, outcome := .none
    broadcastSent := false, heardIdentity := 0, reportedToggle := false, detached := false, phase }

/-- The part with a transfer in progress, trunk A READY. -/
def inTransfer (x : Transfer) : State :=
  { State.reset with
    eng := engine .running .transferring (.running 7), xfer := some x, trunkA := readyTrunk }

/-- The part with a demand of tag 7 for point 4 in the list. -/
def demand (inFlight : Bool) : Demand := { point := 4, station := 12, high := false, deadline := 1, tag := 7, inFlight }

/-- The part with argument registers set. -/
def withArgs (a0 a1 a2 a3 : Word) (s : State) : State :=
  { s with cmd := { s.cmd with args := { arg0 := a0, arg1 := a1, arg2 := a2, arg3 := a3 } } }

/-- The part with a command held, its records read. -/
def holding (work : CommandWork) (s : State) : State :=
  ({ s with cmd := { s.cmd with held := some { args := s.cmd.args, work } } }).beginCommandRead.commandReadsOn 60

/-- The part with one station's record replaced by one in a state. -/
def withStation (n : Nat) (state : StationState) (s : State) : State := s.setStation n { Station.reset with state }

/-- The example plan as the host first writes it (Table 1-11), with the records of points 4 to 6. -/
def exampleRam (round1 : Word) : Ram :=
  [(32, 0x0C01), (33, 0x0503), (34, 0x0600), (35, 6000), (36, 6006)] ++
  [(40, 0x0D03), (42, 0x0402), (43, 6012), (44, 6016), (45, 6020), (46, 6022)] ++
  [(48, 0x3F01), (50, 0x0200), (51, 6030), (52, 6032)] ++
  [(2000, 2), (2001, 100), (2002, 20), (2003, 1), (2004, 5), (2008, 0x0600), (2009, round1)] ++
  [(2072, 3), (2074, 0x2401), (2075, 4), (2076, 0x1801), (2077, 5), (2078, 2), (2080, 0x11A1), (2081, 6)]

/-- The part with the example plan in RAM and POINT COUNT 16. -/
def example1 (round1 : Word) : State :=
  { State.reset with ram := exampleRam round1, set := { State.reset.set with pointCount := 16, planABase := 2000 } }

/-- The example plan corrected, with point 6 a broadcast WRITE and its flags. -/
def correctedRam (flags : Word) : Ram :=
  Ram.write (Ram.write (Ram.write (Ram.write (Ram.write (exampleRam 0x0403) 48 0x3F02) 49 flags) 50 0x0002) 53 7000) 54 7002

/-- The part 3 µs into a slot of a plan, the slot's records read. -/
def atSlotOf (ram : Ram) (i : Nat) : State :=
  ({ example1 0x0403 with
    ram, eng := { engine .running (.reading 3) (.running 7) with slot := i } }).beginEngineRead.engineReadsOn 20

/-- The part in a slot of the example plan. -/
def atSlot (i : Nat) : State := atSlotOf (exampleRam 0x0403) i

/-- The part with a taken demand whose point's record is read, its station and trunk A in given states. -/
def atDemand (d : Demand) (state : StationState) (trunk : TrunkState) : State :=
  withStation 12 state
    (({ example1 0x0403 with
      eng := engine .running (.demandReading 1) (.running 7), demands := [d]
      trunkA := { readyTrunk with state := trunk } }).beginEngineRead.engineReadsOn 20)

/-- The part with a ring of 16 entries that holds published records, and records awaiting storage, of which the first
lacks its eighth word. -/
def withRing (write read : Nat) (dropped : Nat) (awaiting : List EventRecord) : State :=
  { State.reset with
    traffic := { State.reset.traffic with stored := 7 }
    ring :=
      { Ring.reset with
        writeIndex := write, readIndex := read, dropped, dropping := decide (dropped ≠ 0), awaiting, watermark := 15 } }

/-- A record awaiting storage. -/
def anEvent : EventRecord :=
  { kind := .sweepEnd, trunk := none, round := 1, station := 0, outcome := .none, item := 0, sweep := 3, time := 9
    detail := 2 }

/-! ## Commands that the check refuses -/

theorem test_defined_code_is_no_undefined_command : (Instr.undefinedCommand 0x0001).wellFormed = false := by decide
theorem test_undefined_code_is_one : (Instr.undefinedCommand 0x0008).wellFormed = true := by decide
theorem test_read_write_register_is_no_read_only_write : (Instr.readOnlyWrite 0x0025 1).wellFormed = false := by decide
theorem test_missing_register_is_no_read_only_write : (Instr.readOnlyWrite 0x0002 1).wellFormed = false := by decide
theorem test_register_is_not_unmapped : (Instr.unmappedAccess 0x0077 .read).wellFormed = false := by decide
theorem test_shared_memory_is_not_unmapped : (Instr.unmappedAccess 0x4000 .read).wellFormed = false := by decide
theorem test_read_only_register_is_no_register_write : (Instr.registerWrite 0x0000 1).wellFormed = false := by decide
theorem test_command_is_no_register_write : (Instr.registerWrite 0x0004 1).wellFormed = false := by decide
theorem test_missing_register_is_no_register_write : (Instr.registerWrite 0x0078 1).wellFormed = false := by decide
theorem test_register_is_no_shared_memory : (Instr.hostSharedMemoryAccess 0x3FFF .read).wellFormed = false := by decide

/-! ## The manual's examples -/

/-- The example of section 10: the call to point 4 and its answer's header. -/
theorem test_headers_of_one_exchange :
    callHeader0 12 1 true = 0x30C0 ∧ callHeader1 5 0 = 0x0500 ∧
      parseAnswerHeader 0x3220 0x1800 = { station := 12, toggleEcho := true, condition := 0x20, length := 6 } ∧
      frameBits 6 = 168 := by decide

/-- R179 by hand: the register FFFFh is shifted out against ones; a last bit 0 leaves 1021h. -/
theorem test_crc_by_hand : crc16 [0xFFFF] = 0x0000 ∧ crc16 [0xFFFE] = 0x1021 := by decide +kernel

/-- The example of section 1: round 1 starts at 4 where 3 slots stand before it, PLAN INVALID with detail 1C01h. -/
theorem test_round_start_is_checked :
    let t := after .planValidationDone (holding (.validation true .a 2000) (example1 0x0404))
    t.cmd.result = .planInvalid ∧ t.cmd.detail = 0x1C01 := by decide +kernel

/-- The same example, corrected: point 6 is a broadcast READ, detail 4006h. -/
theorem test_broadcast_read_is_checked :
    let t := after .planValidationDone (holding (.validation true .a 2000) (example1 0x0403))
    t.cmd.result = .planInvalid ∧ t.cmd.detail = 0x4006 := by decide +kernel

/-- The run-time re-check of the same example: point 5 with station 0 fails STATION, detail 3C05h. -/
theorem test_recheck_finds_the_station :
    (atSlotOf (Ram.write (exampleRam 0x0403) 40 0x0003) 2).engineFinds (recheckSlot 2000 2) =
      .error { code := 15, index := 5 } ∧ codeIndex 15 5 = 0x3C05 := by decide +kernel

/-- Table 12-7: the 15th event finds 14 records and RING FULL takes its place. -/
theorem test_fifteenth_event_is_displaced :
    let t := (withRing 14 0 0 []).report .stationState none 5 .none 0 0
    t.ring.dropping = true ∧ t.ring.dropped = 1 ∧ t.ring.awaiting.map (·.kind) = [.ringFull] ∧
      t.ring.awaiting.map (·.detail) = [3] := by decide

/-- Table 12-7: read index 4 leaves 11 records, 7 leaves 8 and resumes with detail 8. -/
theorem test_read_index_seven_resumes :
    (after (.ringReadIndexWrite 4) (withRing 15 0 8 [])).ring.dropping = true ∧
      (after (.ringReadIndexWrite 7) (withRing 15 0 8 [])).ring.dropping = false ∧
      (after (.ringReadIndexWrite 7) (withRing 15 0 8 [])).ring.awaiting.map (·.detail) = [8] := by decide

/-- R152: bits 0, 13 and 14 of EVENT ENABLE are discarded. -/
theorem test_event_enable_keeps_its_bits :
    (after (.registerWrite 0x0077 0xFFFF) State.reset).ring.enable = 0x9FFE := by decide

/-- Table 12-4: with thresholds 2 and 4 the second failure makes SUSPECT, the fourth ABSENT. -/
theorem test_station_falls :
    let r := { Station.reset with state := .online }
    (r.failed 2 4).state = .online ∧ ((r.failed 2 4).failed 2 4).state = .suspect ∧
      ((((r.failed 2 4).failed 2 4).failed 2 4).failed 2 4).state = .absent := by decide

/-- Table 12-5: a RELEASE during a reception finds PENDING clear and flips nothing. -/
theorem test_release_during_reception :
    let held := State.reset.setPoint 1 { PointEntry.reset with hold := true, updates := 100 }
    (held.release 1 12 true).cmd.detail = 0 ∧ ((held.release 1 12 true).point 1).updates = 100 := by decide +kernel

/-- Table 12-6: a demand of deadline 1 leaves EXPIRED at the next round start. -/
theorem test_deadline_one_expires :
    ({ State.reset with demands := [demand false] }).ageDemands.demands = [] := by decide

/-- The answer of Table 3-7: REPEAT on attempt 2 is GOOD REPEAT; on attempt 1 it would be OUT OF STEP. -/
theorem test_repeat_by_attempt :
    let h : AnswerHeader := { station := 21, toggleEcho := true, condition := 0x08, length := 0 }
    classifyPoint h true 0 2 = .goodRepeat ∧ classifyPoint h true 0 1 = .outOfStep := by decide

/-- Table 8-3's first error stays in the latch. -/
theorem test_first_error_stays :
    let s := after (.readOnlyWrite 0x0000 1) State.reset
    s.port.errorCode = .readOnly ∧ (after (.unmappedAccess 0x0002 .read) s).port.errorAddress = 0x0000 := by decide

/-- A word stored through shared memory is read back, and the RAM's top word too (R163). -/
theorem test_shared_memory_round_trip :
    (after (.hostSharedMemoryAccess 0x7FFF .read)
      (after (.hostSharedMemoryAccess 0x7FFF (.write 0xABCD)) State.reset)).port.readData = 0xABCD := by decide

/-! ## The arbiter, time and the lines -/

/-- R169: the line path first; else the requester that follows the one granted last. -/
theorem test_arbiter_rotates :
    let all : Waiting := { engine := true, command := true, eventWriter := true, hostPort := true }
    arbitrate true all .engine = some .line ∧ arbitrate false all .engine = some (.rotating .command) ∧
      arbitrate false { all with command := false } .engine = some (.rotating .eventWriter) ∧
      arbitrate false all .hostPort = some (.rotating .engine) := by decide

/-- R170: a host access is granted after one access of each other requester that waits, and no more. -/
theorem test_host_waits_for_one_access_of_each :
    let s : State := { withRing 0 0 0 [anEvent] with traffic := { State.reset.traffic with stored := 0 } }
    (s.serve .hostPort).traffic.stored = 1 ∧ (s.serve .hostPort).lastGrant = .hostPort := by decide +kernel

/-- R149, R156: three words of a record stand in the RAM before it is published, and a reset leaves them there. -/
theorem test_reset_leaves_stored_words :
    let s : State :=
      { withRing 0 0 0 [anEvent] with traffic := { State.reset.traffic with stored := 0 }, ram := [(2, 5), (3, 6)] }
    let u := s.serveMany .eventWriter 4
    u.ram.read 3 = 3 ∧ u.ram.read 2 = 0 ∧ (u.pinReset).ram = u.ram ∧ (u.pinReset).traffic.stored = 0 ∧
      u.resetRunTime.ram = u.ram := by decide +kernel

/-- R132: the end of a frame begins the gap, noise only breaks the quiet; 8 bit times are 8 µs at reset. -/
theorem test_noise_leaves_the_gap :
    let heard (activity : Activity) := after (.lineActivity { trunk := .b, activity }) State.reset
    (heard (.frame 0)).gapLeft .b = 8 ∧ (heard (.frame 0)).quietLeft .b = 8 ∧ (heard .noise).gapLeft .b = 0 ∧
      (heard .noise).quietLeft .b = 8 ∧ (heard .noise).quietLeft .a = 0 := by decide

/-- R56, R132: a talker that begins in the gap and goes on past its end does not hold the attempt in the gap: 4 µs of gap
are left, then the guard of 20 µs counts, and the attempt ends OCCUPIED 24 µs later. A frame that ends within the gap
begins it anew. -/
theorem test_the_guard_bounds_a_talker :
    let s : State := { inTransfer (transfer .point none .gap) with trunkA := { readyTrunk with gapHold := 12, quietHold := 12 } }
    let talks (bits : Nat) := after (.lineActivity { trunk := .a, activity := .frame bits }) s
    s.gapLeft .a = 4 ∧ (talks 100).gapLeft .a = 4 ∧ (talks 2).gapLeft .a = 10 ∧
      (after .occupancyGuardExpiry (talks 100)).time = 24 ∧
      (after .occupancyGuardExpiry (talks 100)).trunkA.faults = 1 ∧
      ((talks 100).elapse 100).gapLeft .a = 8 ∧ ((talks 100).elapse 100).quietLeft .a = 8 := by decide +kernel

/-- R143: a slower rate lengthens what is left of the gap: 4 µs after a frame at 2 Mbit/s, 16 µs at 500 kbit/s. -/
theorem test_rate_moves_the_gap :
    let heard (rate : Word) := (after (.lineActivity { trunk := .a, activity := .frame 0 }) State.reset).hostAccess 0x0060 (.write rate)
    (heard 2).gapLeft .a = 4 ∧ (heard 0).gapLeft .a = 16 := by decide

/-- R58: an echo heard as it was sent opens the answer window; with one bit time heard otherwise it is a mismatch, which
counts against the trunk. -/
theorem test_echo_is_compared_bit_by_bit :
    let s := inTransfer (transfer .point none (.sending 72 0x30C0 0x0500 0 []))
    let sent := frameOnLine (frameWords 0x30C0 0x0500 [])
    let other := sent.take 70 ++ { boundary := true, middle := true, stray := true } :: sent.drop 71
    ((after (.callEchoEnd sent) s).xfer.map (·.phase)) = some (.window 20) ∧
      (after (.callEchoEnd sent) s).trunkA.faults = 0 ∧ (after (.callEchoEnd other) s).trunkA.faults = 1 := by
  decide +kernel

/-- Table 10-8: the read of an OPEN or SYNC slot's record ends with word 0; a PAUSE's and a TRANSFER's goes on to word 1. -/
theorem test_open_and_sync_have_no_second_word :
    (readSlot 2000 1).wants [2] = none ∧ (readSlot 2000 1).wants [3] = none ∧ (readSlot 2000 1).wants [4] = some 2075 ∧
      (readSlot 2000 1).wants [0x2401] = some 2075 := by decide

/-- R100, R119: a READ's record is read without its outgoing pages, a WRITE's without its incoming ones, and a record of
no function stops at word 0. -/
theorem test_a_record_read_takes_what_its_function_uses :
    (readPoint 32).wants [0x0C01, 0x0503, 0x0600, 6000, 6006] = none ∧
      (readPoint 48).wants [0x3F02, 0, 0x0002] = some 53 ∧ (readPoint 48).wants [0x3F00] = none := by decide +kernel

/-- R58, R137: a burst whose last bit time is not heard, and one with another talker during it, are a mismatch. -/
theorem test_overlapped_burst_does_not_count :
    let s : State := { State.reset with trunkA := { trainingTrunk (.sending 9) with training := 2 } }
    let echo := frameOnLine burstWords
    (after (.burstEchoEnd .a echo) s).trunkA.training = 3 ∧ (after (.burstEchoEnd .a (echo.take 119)) s).trunkA.training = 0 ∧
      (after (.burstEchoEnd .a echo) (after (.lineActivity { trunk := .a, activity := .noise }) s)).trunkA.training = 0 := by
  decide +kernel

/-- R56: an attempt that finds noise on a line whose gap has passed, with guard 0, ends OCCUPIED at once. -/
theorem test_guard_of_zero :
    let s : State := { State.reset with set := { State.reset.set with occupancyGuard := 0 }, trunkA := { readyTrunk with quietHold := 16 } }
    ((s.beginAttempt (transfer .sync none .gap) .a).xfer.map (·.phase)) = some (.occupancy 0 true) := by decide

/-- R59: a marker that begins when the window has run out is not received. -/
theorem test_late_marker_is_not_received :
    let answer := wordsOnLine [0x3020, 0x0000, crc16 [0x3020, 0x0000]]
    let heard (left : Nat) := (after (.answerSyncDetected answer) (inTransfer (transfer .point none (.window left)))).xfer.map (·.phase)
    heard 0 = some (.window 0) ∧ (∃ f page, heard 1 = some (.receiving 0 f page 0)) := by
  refine ⟨by decide +kernel, ⟨_, _, by rfl⟩⟩

/-- R6: a pause of 5 µs whose slot's reads took 3 µs waits 2 µs more. -/
theorem test_pause_counts_from_the_slot_begin :
    (after .slotRecordReadDone (atSlotOf [(2072, 4), (2073, 5)] 0)).eng.phase = .pausing 2 := by decide +kernel

/-- R178: the preamble alternates from 1, and the sync marker keeps one level for four bit times, then the other. -/
theorem test_preamble_and_marker :
    ((frameOnLine []).take 16).map (·.middle) = (List.range 16).map (fun i => i % 2 == 0) ∧
      lineLevels true syncMarker = List.replicate 8 false ++ List.replicate 8 true := by decide

/-- R60: an answer of two words is GARBLED. -/
theorem test_two_words_are_garbled :
    answerGarbled { words := [0x3020, 0x0000], tailBits := 0, violation := false } = true := by decide +kernel

/-- R46: with a call on the line ENGINE RESET is held until the cut line is quiet, 8 bit times later. -/
theorem test_engine_reset_waits_for_quiet :
    let s := inTransfer (transfer .point none (.sending 3 0 0 0 []))
    let t := after .engineReset s
    t.eng.state = .idle ∧ t.xfer = none ∧ t.cmd.held.isSome = true ∧ t.quietLeft .a = 8 ∧
      (after .engineResetComplete t).cmd.held = none ∧ (after .engineResetComplete t).cmd.result = .done ∧
      (after .engineResetComplete t).time = 8 := by decide +kernel

/-! ## Witnesses: the queue, time and reset -/

theorem witness_QueueFrontIsExecuted :
    ({ State.reset with pending := [.start] }).pending = .start :: [] := rfl

/-- Every kind of timer, phase, burst and held work, and an attempt that neither sends nor receives. -/
theorem witness_IdleStepIsOneMicrosecond :
    let at_ (phase : SlotPhase) : State := { State.reset with eng := engine .running phase (.running 7) }
    let waits := inTransfer (transfer .point none (.window 20))
    State.reset.pending = [] ∧ State.reset.port.resetAsserted = false ∧
      (after .pinReset State.reset).pending = [] ∧ (after .pinReset State.reset).port.resetAsserted = true ∧
      (at_ (.reading 3)).eng.timer = .running 7 ∧ (∀ left, State.reset.eng.timer ≠ .running left) ∧
      (at_ (.reading 3)).eng.phase = .reading 3 ∧ (at_ (.pausing 2)).eng.phase = .pausing 2 ∧
      (∀ k, State.reset.eng.phase ≠ .reading k ∧ State.reset.eng.phase ≠ .pausing k) ∧
      (trainingTrunk (.sending 9)).burst = .sending 9 ∧ (∀ left, State.reset.trunkA.burst ≠ .sending left) ∧
      State.reset.trunkA.frameLeft = 0 ∧ 0 < ({ readyTrunk with frameLeft := 3 }).frameLeft ∧
      (holding (.abortWait .a 5) State.reset).cmd.held = some { args := State.reset.cmd.args, work := .abortWait .a 5 } ∧
      (holding (.resetWait .b 5) State.reset).cmd.held = some { args := State.reset.cmd.args, work := .resetWait .b 5 } ∧
      (∀ args k left, State.reset.cmd.held ≠ some { args, work := .abortWait k left } ∧
        State.reset.cmd.held ≠ some { args, work := .resetWait k left }) ∧ State.reset.xfer = none ∧
      (∀ x, waits.xfer = some x → (∀ a b c d e, x.phase ≠ .sending a b c d e) ∧
        ∀ a f page d, x.phase ≠ .receiving a f page d) :=
  ⟨rfl, rfl, rfl, rfl, rfl, nofun, rfl, rfl, fun _ => ⟨nofun, nofun⟩, rfl, nofun, rfl, by decide, rfl, rfl,
    fun _ _ _ => ⟨nofun, nofun⟩, rfl, fun x h => by cases h; exact ⟨nofun, nofun⟩⟩

/-- A burst on trunk A, trunk B silent. -/
theorem witness_PinResetClearsAllButMemory :
    let s : State := { State.reset with trunkA := trainingTrunk (.sending 9), trunkB := { readyTrunk with quietHold := 5 } }
    (own s = true ∧ transmits s .a ∧ ¬transmits s .b) ∧
    isHostAccess .start = true ∧ isHostAccess (.hostSharedMemoryAccess 0x7FFF .read) = true ∧
      (after .pinReset State.reset).port.resetAsserted = true :=
  ⟨⟨rfl, .inl ⟨_, rfl⟩, by rintro (⟨_, h⟩ | ⟨_, _, _, _, _, _, h, _⟩) <;> cases h⟩, rfl, rfl, rfl⟩

/-! ## Witnesses: the host port -/

theorem witness_SharedMemoryAccessReachesOneWord :
    let all : Waiting := { engine := true, command := true, eventWriter := true, hostPort := true }
    let none_ : Waiting := { engine := false, command := false, eventWriter := false, hostPort := false }
    own State.reset = true ∧ nothingWaits State.reset ∧ State.reset.port.resetAsserted = false ∧
      RamCanonical (State.reset.serve .hostPort) ∧ 0x4000 ≤ (0x4000 : HostAddress).toNat ∧
      0x4000 ≤ (0x7FFF : HostAddress).toNat ∧ (after .pinReset State.reset).port.resetAsserted = true ∧
      (all.asks .engine = true ∧ ∀ q ∈ [Requester.engine, .command, .eventWriter, .hostPort],
        standingBefore .hostPort .engine ≤ standingBefore .hostPort q) ∧
      ∀ q ∈ [Requester.engine, .command, .eventWriter, .hostPort], none_.asks q = false := by decide +kernel

theorem witness_UnmappedAccessReachesNothing :
    own State.reset = true ∧ State.reset.port.resetAsserted = false ∧ (0x0002 : HostAddress).toNat < 0x4000 ∧
      registerAt (0x0002 : HostAddress).toNat = none ∧ (0x3FFF : HostAddress).toNat < 0x4000 ∧
      registerAt (0x3FFF : HostAddress).toNat = none := by decide +kernel

theorem witness_FirstHostErrorIsLatchedUntilCleared :
    own State.reset = true ∧ State.reset.port.errorCode = .none ∧
      (State.reset.hostError .locked 0x0060).port.errorCode ≠ .none ∧
      State.reset.port.resetAsserted = false := by decide

theorem witness_CausesClearAndIntFollows : own State.reset = true ∧ State.reset.port.resetAsserted = false := ⟨rfl, rfl⟩

theorem witness_TimeLowReadCapturesTheUpperHalf :
    own State.reset = true ∧ State.reset.port.resetAsserted = false ∧ Instr.start.wellFormed = true ∧
      Instr.start ≠ .timeLowRead ∧
      Instr.start ≠ .pinReset ∧ ∃ t, exec .start State.reset = .next t :=
  ⟨rfl, rfl, rfl, by decide, by decide, _, rfl⟩

/-- Both ends of every range, and the values beside them. -/
theorem witness_RangedRegistersStoreOrRefuse :
    own State.reset = true ∧ State.reset.port.resetAsserted = false ∧
      ∀ high ∈ [15288, 3, 255, 62, 15, 7],
        (BitVec.ofNat 16 high).toNat ≤ high ∧ high < (BitVec.ofNat 16 (high + 1)).toNat ∧
          1 ≤ (BitVec.ofNat 16 1).toNat ∧ (BitVec.ofNat 16 0).toNat < 1 := by decide

theorem witness_GatesBelongToTheHost :
    own State.reset = true ∧ State.reset.port.resetAsserted = false ∧ Instr.engineReset.wellFormed = true ∧
      Instr.engineReset ≠ .pinReset ∧
      (∀ v, Instr.engineReset ≠ .registerWrite 0x0025 v) ∧ (∃ t, exec .pinReset State.reset = .next t) ∧
      ∃ t, exec .engineReset State.reset = .next t :=
  ⟨rfl, rfl, rfl, by decide, nofun, ⟨_, rfl⟩, _, rfl⟩

theorem witness_OtherRegistersStoreOrRefuse :
    own State.reset = true ∧ State.reset.port.resetAsserted = false ∧
      (14336 : Word).toNat + 8 * State.reset.set.pointCount.toNat ≤ 16384 ∧
      16384 < (14337 : Word).toNat + 8 * State.reset.set.pointCount.toNat ∧
      (1 ≤ (256 : Word).toNat ∧ (256 : Word).toNat ≤ 256 ∧
        State.reset.set.pointBase.toNat + 8 * (256 : Word).toNat ≤ 16384) ∧
      ¬(1 ≤ (0 : Word).toNat) ∧ ¬((257 : Word).toNat ≤ 256) ∧
      (1 ≤ (15 : Word).toNat ∧ (15 : Word).toNat ≤ 2 ^ State.reset.ring.size.toNat - 1) ∧
      2 ^ State.reset.ring.size.toNat - 1 < (16 : Word).toNat := by decide +kernel

theorem witness_LockedConfigurationIsRefused :
    own State.reset = true ∧ State.reset.port.resetAsserted = false ∧ 1 = State.reset.set.stationSelect.toNat ∧
      (State.reset.station 1).state = .off ∧ own (withStation 1 .absent State.reset) = true ∧
      ((withStation 1 .absent State.reset).station 1).state ≠ .off ∧
      own { State.reset with trunkB := readyTrunk } = true ∧
      (withStation 1 .absent State.reset).set.stationSelect.toNat = 1 ∧ 1 < (2 : Word).toNat ∧
      2 < (3 : Word).toNat ∧ (2 : Word).toNat ≤ 2 ∧ State.reset.trunkA.state = .off ∧ State.reset.trunkB.state = .off ∧
      State.reset.trunkA.frameLeft = 0 ∧
      (0 < ({ Trunk.reset with gapHold := 16, frameLeft := 3 }).frameLeft ∧
        ({ Trunk.reset with gapHold := 16, frameLeft := 3 }).frameLeft < 16 - (16 - 8)) ∧
      ¬(({ State.reset with trunkB := readyTrunk }).trunkA.state = .off ∧
        ({ State.reset with trunkB := readyTrunk }).trunkB.state = .off) ∧
      Instr.timeLowRead ≠ .pinReset ∧ ∃ t, exec .timeLowRead (withStation 1 .absent State.reset) = .next t :=
  ⟨rfl, rfl, rfl, rfl, rfl, by decide, rfl, rfl, by decide, by decide, by decide, rfl, rfl, rfl, by decide, by decide, by decide, _,
    rfl⟩

theorem witness_ReadOnlyWriteIsIgnored :
    own State.reset = true ∧ State.reset.port.resetAsserted = false ∧
      registerAt (0x0000 : HostAddress).toNat = some .id ∧
      registerAt (0x004D : HostAddress).toNat = some (.stationWindow 5) ∧
      registerAt (0x0075 : HostAddress).toNat = some .droppedCount := ⟨rfl, rfl, rfl, rfl, rfl⟩

theorem witness_IdentityOfThePart : own State.reset = true ∧ State.reset.port.resetAsserted = false := ⟨rfl, rfl⟩

theorem witness_CommandRegisterJudgesTheWrite :
    own State.reset = true ∧ Ready State.reset ∧
      (∀ code ∈ [0x00, 0x08, 0x0F, 0x12, 0x52, 0xFFFF], BitVec.ofNat 16 code ∉ ([0x01, 0x02, 0x03, 0x04, 0x05, 0x06, 0x07,
        0x10, 0x11, 0x20, 0x21, 0x30, 0x31, 0x32, 0x40, 0x41, 0x50, 0x51] : List Word)) ∧
      own (holding (.pointRead .hold 4) State.reset) = true ∧
      (holding (.pointRead .hold 4) State.reset).port.resetAsserted = false ∧
      (holding (.pointRead .hold 4) State.reset).cmd.held ≠ none :=
  ⟨rfl, ⟨rfl, rfl⟩, by simp, by decide +kernel, rfl, by decide +kernel⟩

/-- Nothing in progress, and a demand's transfer, with every field at the end of its range. -/
theorem witness_StatusRegistersShowTheirFields :
    let x : Transfer := { transfer .broadcast (some 255) .gap with attempts := 4 }
    let s : State :=
      { inTransfer x with
        eng := { engine .running .transferring (.running 7) with round := 63, slot := 511 }, demands := [demand true]
        set := { State.reset.set with pointSelect := 255, stationSelect := 62 } }
    s.port.resetAsserted = false ∧ registerAt (0x0050 : HostAddress).toNat = some .demandStatus ∧
      Register.demandStatus ≠ .timeLow ∧ s.eng.round < 64 ∧ s.eng.slot < 512 ∧ State.reset.xfer = none ∧
      s.xfer = some x ∧ x.attempts < 8 ∧ x.station < 64 ∧ (transfer .sync none .gap).demandTag = none ∧
      x.demandTag = some 255 ∧ s.demands.length < 16 ∧ State.reset.demandInFlight = none ∧
      s.demandInFlight = some (demand true) ∧ (s.station 62).failureRun < 16 ∧ (s.station 62).confirmCount < 8 ∧
      (s.station 62).probeCountdown < 256 ∧ (s.trunk .a).faults < 8 ∧ (s.trunk .a).training < 8 ∧
      (s.trunk .b).faults < 8 ∧ (s.trunk .b).training < 8 ∧ s.ring.published < 1024 ∧
      s.set.pointSelect.toNat ≤ 255 ∧ (s.point 255).stampRound < 64 ∧ s.ring.readIndex < 1024 ∧
      s.ring.writeIndex < 1024 ∧ s.ring.dropped ≤ 65535 := by decide +kernel

/-! ## Witnesses: the event ring -/

theorem witness_ReadIndexWriteConsumesOrIsRefused :
    own State.reset = true ∧ own (withRing 15 0 8 []) = true ∧ State.reset.port.resetAsserted = false ∧
      2 ^ State.reset.ring.size.toNat ≤ (16 : Word).toNat ∧
      (1 : Word).toNat < 2 ^ State.reset.ring.size.toNat ∧
      State.reset.ring.published < ((1 : Word).toNat + 16 - State.reset.ring.readIndex) % 16 ∧
      ((0 : Word).toNat + 16 - State.reset.ring.readIndex) % 16 ≤ State.reset.ring.published ∧
      State.reset.ring.dropping = false ∧ (withRing 15 0 8 []).ring.dropping = true ∧
      16 / 2 < ({ (withRing 15 0 8 []).ring with readIndex := 6 }).reserved ∧
      ({ (withRing 15 0 8 []).ring with readIndex := 7 }).reserved ≤ 16 / 2 := by decide +kernel

theorem witness_RingGeometryWriteEmptiesTheRing :
    own State.reset = true ∧ own (inState .running) = true ∧ own (inState .draining) = true ∧
      own (inState .halted) = true ∧ State.reset.port.resetAsserted = false ∧ 16383 < (16384 : Word).toNat ∧
      (16383 : Word).toNat ≤ 16383 ∧
      (inState .running).eng.state = .running ∧ (inState .draining).eng.state = .draining ∧
      State.reset.eng.state = .idle ∧ (inState .halted).eng.state = .halted ∧
      16384 < (16257 : Word).toNat + 8 * 2 ^ State.reset.ring.size.toNat ∧
      (16256 : Word).toNat + 8 * 2 ^ State.reset.ring.size.toNat ≤ 16384 ∧ (3 : Word).toNat < 4 ∧
      10 < (11 : Word).toNat ∧ 4 ≤ (4 : Word).toNat ∧ (10 : Word).toNat ≤ 10 ∧
      16384 < (8193 : Word).toNat + 8 * 2 ^ (10 : Word).toNat ∧
      State.reset.ring.base.toNat + 8 * 2 ^ (10 : Word).toNat ≤ 16384 := by decide +kernel

/-- The relations of a ring from their values. -/
theorem ringInv_of (r : Ring)
    (h : 4 ≤ r.size.toNat ∧ r.size.toNat ≤ 10 ∧ r.base.toNat + 8 * r.entries ≤ 16384 ∧ r.readIndex < r.entries ∧
      r.writeIndex < r.entries ∧ r.reserved ≤ r.entries - 1 ∧ (r.dropping = false → r.reserved ≤ r.entries - 2) ∧
      (r.dropping = false ↔ r.dropped = 0) ∧ r.dropped ≤ 65535 ∧ 1 ≤ r.watermark.toNat ∧
      r.watermark.toNat ≤ r.entries - 1) : RingInv r :=
  ⟨h.1, h.2.1, h.2.2.1, h.2.2.2.1, h.2.2.2.2.1, h.2.2.2.2.2.1, h.2.2.2.2.2.2.1, h.2.2.2.2.2.2.2.1, h.2.2.2.2.2.2.2.2.1,
    h.2.2.2.2.2.2.2.2.2.1, h.2.2.2.2.2.2.2.2.2.2⟩

/-- One record at position 0, whole and with its eighth word missing, and the record that fills the ring to its
watermark of 15. -/
theorem witness_PublicationStoresOneWholeRecord :
    let fresh : State := { withRing 0 0 0 [anEvent] with traffic := { State.reset.traffic with stored := 0 } }
    RamCanonical fresh ∧ RingInv fresh.ring ∧ fresh.ring.awaiting = anEvent :: [] ∧ fresh.traffic.stored + 8 ≤ 8 ∧
      (withRing 0 0 0 [anEvent]).traffic.stored + 1 ≤ 8 ∧ own (withRing 0 0 0 [anEvent]) = true ∧
      (withRing 0 0 0 [anEvent]).ring.awaiting = anEvent :: [] ∧
      (after .eventRecordPublished (withRing 0 0 0 [anEvent])).ring.published ≠
        (withRing 0 0 0 [anEvent]).ring.watermark.toNat ∧
      own (withRing 14 0 1 [anEvent]) = true ∧ RingInv (withRing 14 0 1 [anEvent]).ring ∧
      (after .eventRecordPublished (withRing 14 0 1 [anEvent])).ring.published =
        (withRing 14 0 1 [anEvent]).ring.watermark.toNat :=
  ⟨rfl, ringInv_of _ (by decide +kernel), rfl, by decide, by decide, rfl, rfl, by decide +kernel, rfl,
    ringInv_of _ (by decide +kernel), by decide +kernel⟩

theorem witness_EventsAreAdmittedDisplacedOrCounted :
    EventKind.pointUpdate ≠ .ringFull ∧ EventKind.pointUpdate ≠ .resumed ∧
      State.reset.ring.enable.getLsbD EventKind.pointUpdate.code = false ∧
      State.reset.ring.enable.getLsbD EventKind.noTrunk.code = true ∧ (withRing 15 0 1 []).ring.dropping = true ∧
      (withRing 13 0 0 []).ring.dropping = false ∧
      (withRing 13 0 0 []).ring.reserved + 3 ≤ 2 ^ (withRing 13 0 0 []).ring.size.toNat ∧
      2 ^ (withRing 14 0 0 []).ring.size.toNat < (withRing 14 0 0 []).ring.reserved + 3 := by decide +kernel

/-! ## Witnesses: the schedule engine -/

theorem witness_StartAndStepBeginASweep :
    (∀ state ∈ [EngineState.idle, .running, .draining, .halted], own (inState state) = true) ∧ own State.reset = true ∧
      Ready (inState .idle) ∧ (inState .idle).eng.state = .idle ∧ (inState .idle).eng.active ≠ none ∧
      Ready State.reset ∧
      State.reset.eng.state = .idle ∧ State.reset.eng.active = none ∧ Ready (inState .running) ∧
      (inState .running).eng.state = .running ∧ Ready (inState .draining) ∧ (inState .draining).eng.state = .draining ∧
      Ready (inState .halted) ∧ (inState .halted).eng.state = .halted := by decide

theorem witness_StopCommandsNameTheStopPoint :
    (∀ state ∈ [EngineState.running, .draining, .halted], own (inState state) = true) ∧ own State.reset = true ∧
      Ready (inState .running) ∧ (inState .running).eng.state = .running ∧ Ready (inState .draining) ∧
      (inState .draining).eng.state = .draining ∧ Ready State.reset ∧ State.reset.eng.state = .idle ∧
      Ready (inState .halted) ∧ (inState .halted).eng.state = .halted := by decide

/-- A demand being read; a call cut on the line; a window cut; a held ABORT. -/
theorem witness_AbortStopsTheEngineAtOnce :
    let read : State := { State.reset with eng := engine .running (.demandReading 1) (.running 7), demands := [demand true] }
    let sent := transfer .point none (.sending 3 0 0 0 [])
    let waits := transfer .point none (.window 20)
    own State.reset = true ∧ own (inState .running) = true ∧ own read = true ∧ own (inTransfer sent) = true ∧
      own (inTransfer waits) = true ∧ own (holding (.abortWait .a 5) State.reset) = true ∧ Ready State.reset ∧
      State.reset.eng.state = .idle ∧ Ready (inState .running) ∧ (inState .running).xfer = none ∧
      (inState .running).eng.state = .running ∧ (inState .running).demandInFlight = none ∧ Ready read ∧
      read.eng.state = .running ∧ read.xfer = none ∧ read.eng.phase = .demandReading 1 ∧
      read.demandInFlight = some (demand true) ∧ Ready (inTransfer sent) ∧
      (inTransfer sent).eng.state = .running ∧ (inTransfer sent).xfer = some sent ∧
      (∃ el h0 h1 n pl, sent.phase = .sending el h0 h1 n pl) ∧ (inTransfer waits).xfer = some waits ∧
      (∀ el h0 h1 n pl, waits.phase ≠ .sending el h0 h1 n pl) ∧
      (holding (.abortWait .a 5) State.reset).cmd.held = some { args := State.reset.cmd.args, work := .abortWait .a 5 } :=
  ⟨rfl, rfl, rfl, rfl, rfl, rfl, ⟨rfl, rfl⟩, rfl, ⟨rfl, rfl⟩, rfl, rfl, rfl, ⟨rfl, rfl⟩, rfl, rfl, rfl, rfl,
    ⟨rfl, rfl⟩, rfl, rfl, ⟨_, _, _, _, _, rfl⟩, rfl, nofun, rfl⟩

theorem witness_ClearHaltReturnsToIdle :
    (∀ state ∈ [EngineState.running, .draining, .halted], own (inState state) = true) ∧ own State.reset = true ∧
      Ready (inState .halted) ∧ (inState .halted).eng.state = .halted ∧ Ready State.reset ∧
      State.reset.eng.state = .idle ∧
      Ready (inState .running) ∧ (inState .running).eng.state = .running ∧ Ready (inState .draining) ∧
      (inState .draining).eng.state = .draining := by decide

/-- No transfer; a call cut on the line; a gap cut; a held ENGINE RESET. -/
theorem witness_EngineResetClearsRunTimeState :
    let sent := transfer .point none (.sending 3 0 0 0 [])
    let gap := transfer .sync none .gap
    own State.reset = true ∧ own (inTransfer sent) = true ∧ own (inTransfer gap) = true ∧
      own (holding (.resetWait .a 5) State.reset) = true ∧ Ready State.reset ∧ State.reset.xfer = none ∧
      Ready (inTransfer sent) ∧ (inTransfer sent).xfer = some sent ∧
      (∃ el h0 h1 n pl, sent.phase = .sending el h0 h1 n pl) ∧ Ready (inTransfer gap) ∧
      (inTransfer gap).xfer = some gap ∧
      (∀ el h0 h1 n pl, gap.phase ≠ .sending el h0 h1 n pl) ∧
      (holding (.resetWait .a 5) State.reset).cmd.held = some { args := State.reset.cmd.args, work := .resetWait .a 5 } :=
  ⟨rfl, rfl, rfl, rfl, ⟨rfl, rfl⟩, rfl, ⟨rfl, rfl⟩, rfl, ⟨_, _, _, _, _, rfl⟩, ⟨rfl, rfl⟩, rfl, nofun, rfl⟩

theorem witness_RoundStartAgesTheTables :
    (inState .running).eng.active = some (plan .late) ∧
      ((plan .late).directory.getD 1 { first := 0, count := 0 }).count = 2 ∧
      ((plan .late).directory.getD 2 { first := 0, count := 0 }).count = 0 ∧
      ((withStation 62 .absent State.reset).station 62).state = .absent ∧ (State.reset.station 62).state ≠ .absent := by
  decide

/-- Round 0 of two, round 1 of two, a stop at the round's end; an overrun in each phase of a slot. -/
theorem witness_RoundTimerEndsTheRoundOrOverruns :
    let at_ (state : EngineState) (round slot : Nat) (phase : SlotPhase) : State :=
      { State.reset with eng := { engine state phase (.running 7) with round, slot } }
    (∀ phase ∈ [SlotPhase.none, .reading 3, .pausing 3, .demandReading 1, .transferring],
      own (at_ .running 0 2 phase) = true ∧ (at_ .running 0 2 phase).eng.timer = .running 7 ∧
      (at_ .running 0 2 phase).eng.active = some (plan .late)) ∧
      ((at_ .running 1 4 .none).elapse 7).eng.phase = .none ∧ ((at_ .running 1 4 .none).elapse 7).slotsLeft = 0 ∧
      (plan .late).roundCount ≤ (at_ .running 1 4 .none).eng.round + 1 ∧
      ((at_ .draining 0 2 .none).elapse 7).slotsLeft = 0 ∧
      (at_ .draining 0 2 .none).eng.round + 1 < (plan .late).roundCount ∧
      (at_ .draining 0 2 .none).eng.state = .draining ∧ (at_ .draining 0 2 .none).eng.stop = .roundEnd ∧
      ((at_ .running 0 2 .none).elapse 7).slotsLeft = 0 ∧ (at_ .running 0 2 .none).eng.state ≠ .draining ∧
      ¬(((at_ .running 0 1 .none).elapse 7).slotsLeft = 0) ∧
      ((at_ .running 0 2 .transferring).elapse 7).eng.phase = .transferring ∧
      ((at_ .running 0 2 (.demandReading 1)).elapse 7).eng.phase = .demandReading 1 ∧
      ((at_ .running 0 2 (.reading 3)).elapse 7).eng.phase = .reading 10 ∧ own (at_ .draining 0 2 .none) = true ∧
      ((at_ .running 0 2 (.pausing 9)).elapse 7).eng.phase = .pausing 2 ∧
      (plan .late).policy = .late ∧ (plan .truncate).policy ≠ .late := by decide

theorem witness_SlotEndLeadsOn :
    let at_ (policy : OverrunPolicy) (slot : Nat) (timer : RoundTimer) : State :=
      { State.reset with eng := { engine .running (.pausing 3) timer with active := some (plan policy), slot } }
    (∀ policy ∈ [OverrunPolicy.late, .truncate, .halt], (at_ policy 1 .expired).eng.active = some (plan policy) ∧
      (at_ policy 1 .expired).eng.timer = .expired) ∧
      0 < (at_ .late 1 .expired).slotsLeft ∧ (at_ .late 2 .expired).slotsLeft = 0 ∧
      (at_ .halt 1 (.running 7)).eng.timer ≠ .expired ∧ 0 < (at_ .halt 1 (.running 7)).slotsLeft ∧
      (at_ .halt 2 (.running 7)).slotsLeft = 0 ∧ own (at_ .late 2 .expired) = true ∧
      (at_ .late 2 .expired).eng.phase = .pausing 3 := by decide

/-- The slots not begun of an empty round, and at the first and the last slot of the example's round of two. -/
theorem witness_SlotEndLeadsOn_slotsLeft :
    let at_ (g : Geometry) (round slot : Nat) : State :=
      { State.reset with eng := { engine .running .none (.running 7) with active := some g, round, slot } }
    let empty : Geometry := { plan .late with directory := [{ first := 0, count := 3 }, { first := 3, count := 0 }] }
    (at_ empty 1 0).eng.active = some empty ∧ empty.directory.getD 1 { first := 9, count := 9 } = { first := 3, count := 0 } ∧
      (at_ empty 1 0).slotsLeft = 0 ∧ (plan .late).directory.getD 1 { first := 0, count := 0 } = { first := 3, count := 2 } ∧
      (at_ (plan .late) 1 3).slotsLeft = 1 ∧ (at_ (plan .late) 1 4).slotsLeft = 0 ∧
      (at_ (plan .late) 0 0).slotsLeft = 2 := by decide

theorem witness_StopsAndBoundariesApplyThePendingSwitch :
    (inState .draining).eng.active = some (plan .late) ∧ (inState .draining).eng.state = .draining ∧
      (inState .draining).eng.stop = .roundEnd ∧ (inState .running).eng.active = some (plan .late) ∧
      (inState .running).eng.state ≠ .draining ∧ (inState .running).eng.round + 1 < (plan .late).roundCount ∧
      (plan .late).roundCount ≤ ({ (inState .running).eng with round := 1 }).round + 1 := by decide

/-- Point 5 of the example: an EXCHANGE with station 13, sent on commit. -/
def point5 : PointRecord :=
  { function := .exchange, station := 13, report := false, notify := false, sendOnCommit := true, objectIndex := 0
    outLength := 2, inLength := 4, inPage0 := 6012, inPage1 := 6016, outPage0 := 6020, outPage1 := 6022 }

/-- Point 6 of the corrected example: a broadcast WRITE of two words. -/
def point6 (sendOnCommit : Bool) : PointRecord :=
  { function := .write, station := 63, report := false, notify := false, sendOnCommit, objectIndex := 0, outLength := 2
    inLength := 0, inPage0 := 0, inPage1 := 0, outPage0 := 7000, outPage1 := 7002 }

/-- A slot of the example at the end of its reads, which find `start`. -/
def startsWith (s : State) (start : Except CheckFailure SlotStart) : Bool :=
  own s && decide (s.eng.phase = .reading 3) && decide (s.engineReadsOn 4700 = s) &&
    decide (s.engineFinds (recheckSlot s.activeBase s.eng.slot) = start)

/-- The example's slot 2 with a broken record, its slot 4 at a closed gate, and slot starts whose station or trunks
keep a call back. -/
theorem witness_SlotStartMayEndWithoutACall :
    let gate : GateTest := { gate := 2, runIfSet := true }
    let held := atSlotOf (correctedRam 4) 4
    let commit := withStation 13 .online (atSlotOf (Ram.write (exampleRam 0x0403) 41 0x0004) 2)
    let asking : State := withStation 12 .online { atSlot 3 with demands := [demand false] }
    startsWith (atSlotOf [] 2) (.error { code := 9, index := 2 }) = true ∧
      startsWith (atSlotOf (correctedRam 0) 4)
        (.ok { slot := { gate := some gate, work := .transfer 6 0 .same }, point := some (point6 false) }) = true ∧
      gateMatches (atSlotOf (correctedRam 0) 4).set.gates (some gate) = false ∧
      startsWith (atSlotOf [(2072, 4), (2073, 5)] 0) (.ok { slot := { gate := none, work := .pause 5 }, point := none }) = true ∧
      startsWith (atSlot 1) (.ok { slot := { gate := none, work := .transfer 4 1 .alternate }, point := some point4 }) = true ∧
      ((atSlot 1).station 12).state = .off ∧ point4.station ≠ 63 ∧ own (withStation 12 .absent (atSlot 1)) = true ∧
      ((withStation 12 .absent (atSlot 1)).station 12).state = .absent ∧
      startsWith commit (.ok { slot := { gate := none, work := .transfer 5 2 .same }, point := some point5 }) = true ∧
      (commit.station 13).state = .online ∧ point5.function ≠ .read ∧ point5.sendOnCommit = true ∧
      (commit.point 5).committed = false ∧
      startsWith { held with set := { held.set with gates := 4 } }
        (.ok { slot := { gate := some gate, work := .transfer 6 0 .same }, point := some (point6 true) }) = true ∧
      gateMatches 4 (some gate) = true ∧ (point6 true).station = 63 ∧ (held.point 6).committed = false ∧
      startsWith (atSlot 3) (.ok { slot := { gate := none, work := .openSlot }, point := none }) = true ∧
      (atSlot 3).demands.any (atSlot 3).servable = false ∧
      startsWith asking (.ok { slot := { gate := none, work := .openSlot }, point := none }) = true ∧
      asking.demands.any asking.servable = true ∧
      startsWith (atSlot 0) (.ok { slot := { gate := none, work := .sync }, point := none }) = true ∧
      (∀ s ∈ [atSlot 0, asking, withStation 12 .online (atSlot 1), withStation 12 .confirming (atSlot 1),
        withStation 12 .absent (atSlot 1), atSlotOf (correctedRam 0) 4], noneUsable s ∧
          onlyTraining { s with trunkB := trainingTrunk .none }) := by decide +kernel

/-- Slots 0 and 1 of the example with trunk A READY: a SYNC, and point 4 of a station that is called or probed; slot 4
with its gate open. -/
theorem witness_SlotStartHandsOverATransfer :
    let s (i : Nat) (state : StationState) : State := withStation 12 state { atSlot i with trunkA := readyTrunk }
    let gate : GateTest := { gate := 2, runIfSet := true }
    let broadcast : State :=
      { atSlotOf (correctedRam 0) 4 with trunkA := readyTrunk, set := { (atSlot 4).set with gates := 4 } }
    (∀ state ∈ [StationState.online, .suspect, .absent, .confirming],
      ((s 1 state).station 12).state = state ∧ ((s 1 state).station 12).probeCountdown = 0 ∧ someReady (s 1 state) ∧
      startsWith (s 1 state)
        (.ok { slot := { gate := none, work := .transfer 4 1 .alternate }, point := some point4 }) = true) ∧
      point4.station = 12 ∧ point4.function = .read ∧ someReady (s 0 .off) ∧
      startsWith (s 0 .off) (.ok { slot := { gate := none, work := .sync }, point := none }) = true ∧
      startsWith broadcast
        (.ok { slot := { gate := some gate, work := .transfer 6 0 .same }, point := some (point6 false) }) = true ∧
      (point6 false).station = 63 ∧ (point6 false).sendOnCommit = false ∧ someReady broadcast ∧
      gateMatches broadcast.set.gates (some gate) = true := by decide +kernel

/-- A demand of an OFF station ahead of the one that is served; the taken demand's read with its trunks and station in
each state, a broadcast's, and one whose point has no record. -/
theorem witness_OpenSlotServesTheFirstEligibleDemand :
    let offDemand : Demand := { demand false with point := 5, station := 13, tag := 8 }
    let wide63 (inFlight : Bool) : Demand := { demand inFlight with point := 6, station := 63 }
    let s : State := withStation 12 .online { atSlot 3 with trunkA := readyTrunk, demands := [offDemand, demand false] }
    let toAll : State :=
      ({ example1 0x0403 with
        ram := correctedRam 0, trunkA := readyTrunk, demands := [wide63 true]
        eng := engine .running (.demandReading 1) (.running 7) }).beginEngineRead.engineReadsOn 20
    let wide : Demand := { demand true with point := 16 }
    startsWith s (.ok { slot := { gate := none, work := .openSlot }, point := none }) = true ∧ someReady s ∧
      s.demands = [offDemand] ++ demand false :: [] ∧ (∀ b ∈ s.demands, b.inFlight = false) ∧
      s.eligible offDemand = false ∧ s.eligible (demand false) = true ∧ s.eligible (wide63 false) = true ∧
      own toAll = true ∧ toAll.engineReadsOn 4700 = toAll ∧ toAll.eng.phase = .demandReading 1 ∧
      toAll.demandInFlight = some (wide63 true) ∧ toAll.engineFinds (checkDemand (wide63 true)) = .ok (point6 false) ∧
      (point6 false).station = 63 ∧ toAll.eligible (wide63 true) = true ∧ someReady toAll ∧
      (∀ state ∈ [StationState.online, .off], ∀ t ∈ [TrunkState.ready, .training, .off],
        own (atDemand (demand true) state t) = true ∧
        (atDemand (demand true) state t).engineReadsOn 4700 = atDemand (demand true) state t ∧
        (atDemand (demand true) state t).eng.phase = .demandReading 1 ∧
        (atDemand (demand true) state t).demandInFlight = some (demand true) ∧
        (atDemand (demand true) state t).engineFinds (checkDemand (demand true)) = .ok point4 ∧
        (atDemand (demand true) state t).eligible (demand true) = decide (state = .online)) ∧
      someReady (atDemand (demand true) .online .ready) ∧ onlyTraining (atDemand (demand true) .online .training) ∧
      noneUsable (atDemand (demand true) .online .off) ∧ own (atDemand wide .online .ready) = true ∧
      (atDemand wide .online .ready).demandInFlight = some wide ∧
      (atDemand wide .online .ready).engineFinds (checkDemand wide) = .error 13 := by decide +kernel

/-! ## Witnesses: plans and commands that read -/

theorem witness_ReadingCommandsAreHeld :
    own State.reset = true ∧ own (example1 0) = true ∧ Ready State.reset ∧ State.reset.cmd.args.arg0 = 0 ∧
      State.reset.eng.pending = none ∧
      ({ State.reset with eng := { Engine.reset with pending := some (plan .late) } }).eng.pending ≠ none ∧
      2 < (withArgs 3 0 0 0 State.reset).cmd.args.arg0.toNat ∧ 1 < (withArgs 2 0 0 0 State.reset).cmd.args.arg0.toNat ∧
      ((withArgs 255 0 0 0 State.reset).cmd.args.arg0.toNat ≤ 255 ∧
        (withArgs 255 0 0 0 State.reset).cmd.args.arg0.toNat < State.reset.set.pointCount.toNat) ∧
      255 < (withArgs 256 0 0 0 State.reset).cmd.args.arg0.toNat ∧
      (example1 0).set.pointCount.toNat ≤ (withArgs 16 0 0 0 (example1 0)).cmd.args.arg0.toNat ∧
      1 < (withArgs 0 2 0 0 State.reset).cmd.args.arg1.toNat ∧
      255 < (withArgs 0 0 256 0 State.reset).cmd.args.arg2.toNat ∧
      255 < (withArgs 0 0 0 256 State.reset).cmd.args.arg3.toNat ∧
      (withArgs 255 1 255 255 State.reset).cmd.args.arg1.toNat ≤ 1 ∧
      (withArgs 255 1 255 255 State.reset).cmd.args.arg3.toNat ≤ 255 := by decide +kernel

theorem witness_CancelRemovesThePendingSwitch :
    own (withArgs 2 0 0 0 State.reset) = true ∧ Ready (withArgs 2 0 0 0 State.reset) ∧
      (withArgs 2 0 0 0 State.reset).cmd.args.arg0 = 2 ∧
      State.reset.eng.pending = none ∧
      ({ State.reset with eng := { Engine.reset with pending := some (plan .late) } }).eng.pending ≠ none := by decide

/-- The example plan, invalid as first written, and with round 1 and point 6 corrected; a read that asks for a word, and
one at its end. -/
theorem witness_ValidationEndsWithItsResult :
    let s (ram : Ram) (forSwitch : Bool) : State :=
      holding (.validation forSwitch .a 2000) { example1 0 with ram }
    let bad := s (exampleRam 0x0404) true
    let good := s (correctedRam 0) true
    own bad = true ∧ own good = true ∧
      bad.cmd.held = some { args := State.reset.cmd.args, work := .validation true .a 2000 } ∧
      bad.commandReadsOn 4700 = bad ∧ bad.commandFinds (validateBank .a 2000) = .error { code := 7, index := 1 } ∧
      good.commandReadsOn 4700 = good ∧ good.commandFinds (validateBank .a 2000) = .ok (plan .late) ∧
      good.eng.state = .idle ∧ ({ good with eng := engine .draining .none (.running 7) }).eng.state = .draining ∧
      (validateBank .a 2000).wants [] = some 2000 ∧ (validateBank .a 2000).wants [0] = none ∧
      (validateBank .a 2000).samples Settings.reset [0] = [] := by decide +kernel

/-- Grants that fetch: to the engine at the second word of slot 1's record, after which POINT COUNT and POINT BASE are
sampled; to a validation at its first word; to a demand's check and the commands' record reads at their first. -/
theorem witness_ValidationEndsWithItsResult_grants :
    let slot : State :=
      { example1 0 with
        eng := { engine .running (.reading 3) (.running 7) with slot := 1 }
        traffic := { State.reset.traffic with engine := some [0x2401] } }
    let taken : State :=
      { example1 0 with eng := engine .running (.demandReading 1) (.running 7), demands := [demand true] }
    let held (work : CommandWork) : State :=
      ({ example1 0 with cmd := { State.reset.cmd with held := some { args := State.reset.cmd.args, work } } }).beginCommandRead
    slot.engineReading.wants [0x2401] = some 2075 ∧
      slot.engineReading.samples slot.set [0x2401, slot.ram.read 2075] = [16, 0] ∧
      (slot.grant .engine).traffic.engine = some [0x2401, 4, 16, 0] ∧
      taken.demandInFlight = some (demand true) ∧ taken.eng.phase = .demandReading 1 ∧
      (held (.validation true .a 2000)).commandReading.wants [] = some 2000 ∧
      ((held (.validation true .a 2000)).grant .command).traffic.command = some [2] ∧
      (held (.pointRead .hold 4)).traffic.command = some [0] ∧
      ((held (.pointRead .hold 4)).grant .command).traffic.command = some [0, 0x0C01] ∧
      ((held (.postCheck 4 true 1 7)).grant .command).traffic.command = some [0, 0x0C01] := by decide +kernel

theorem witness_ChecksPassOnlyLegalRecords :
    (validateBank .a 2000).value (example1 0).set (correctedRam 0) [] = .ok (plan .late) ∧
      (plan .late).directory[1]? = some { first := 3, count := 2 } ∧
      (readPoint 32).value Settings.reset [] [0x0C01, 0x0503, 0x0600, 6000, 6006] = .ok point4 ∧
      (readPoint 40).value Settings.reset [] [0x0D03, 0x0004, 0x0402, 6012, 6016, 6020, 6022] = .ok point5 ∧
      (readPoint 48).value Settings.reset [] [0x3F02, 0, 0x0002, 7000, 7002] = .ok (point6 false) := by decide +kernel

/-! ## Witnesses: stations, points and demands -/

theorem witness_StationsEnterAndLeaveService :
    own (withArgs 62 1 0 0 State.reset) = true ∧ own (withStation 1 .suspect State.reset) = true ∧
      Ready (withArgs 62 1 0 0 State.reset) ∧ 62 = (withArgs 62 1 0 0 State.reset).cmd.args.arg0.toNat ∧
      (withArgs 62 1 0 0 State.reset).cmd.args.arg1 = 1 ∧ (State.reset.station 62).state = .off ∧
      ((withStation 1 .suspect State.reset).station 1).state ≠ .off ∧
      0 = (withArgs 0 0 0 0 State.reset).cmd.args.arg0.toNat ∧
      62 < (withArgs 63 0 0 0 State.reset).cmd.args.arg0.toNat ∧
      1 < (withArgs 1 2 0 0 State.reset).cmd.args.arg1.toNat := by decide +kernel

/-- Station 12 in each state, with a run count below, at and above the thresholds 2 and 4, and the counts of a probe. -/
theorem witness_HealthEvaluationFollowsTheOutcome :
    let x := transfer .point none .gap
    let p := transfer .probe none .gap
    let s : State := State.reset.setStation 12 { Station.reset with state := .confirming, confirmCount := 2, expectedIdentity := 9 }
    1 ≤ x.station ∧ x.station ≤ 62 ∧ x.detached = false ∧ ({ x with detached := true }).detached = true ∧
      x.kind = .point ∧ p.kind = .probe ∧ (State.reset.station 12).state = .off ∧
      ((withStation 12 .online State.reset).station 12).state = .online ∧
      ((withStation 12 .suspect State.reset).station 12).state = .suspect ∧
      ((withStation 12 .absent State.reset).station 12).state = .absent ∧
      (∀ run ∈ [0, 1, 3, 15], min (run + 1) 15 ≤ 15) ∧ State.reset.set.suspectAfter.toNat = 2 ∧
      State.reset.set.absentAfter.toNat = 4 ∧ (s.station 12).state = .confirming ∧
      s.set.confirmCount.toNat ≤ (s.station 12).confirmCount + 1 ∧
      ((withStation 12 .absent State.reset).station 12).confirmCount + 1 < State.reset.set.confirmCount.toNat ∧
      (State.reset.station 12).expectedIdentity = 0 ∧ (s.station 12).expectedIdentity ≠ 0 ∧
      p.heardIdentity ≠ (s.station 12).expectedIdentity := by decide +kernel

theorem witness_PointCommandsActWhenTheirReadEnds :
    let s (c : PointCommand) (p : BitVec 8) (e : PointEntry) : State := (holding (.pointRead c p) (example1 0)).setPoint p e
    let found (c : PointCommand) (p : BitVec 8) := (s c p .reset).commandFinds (readPointHead p)
    (∀ c ∈ [PointCommand.hold, .release, .commit], own (s c 4 .reset) = true ∧
      (s c 4 .reset).commandReadsOn 4700 = s c 4 .reset ∧
      (s c 4 .reset).cmd.held = some { args := State.reset.cmd.args, work := .pointRead c 4 }) ∧
      found .hold 4 = (0x0C01, 0x0503) ∧ (found .commit 5).1.toNat % 8 = 3 ∧ (found .release 4).2.getLsbD 1 = true ∧
      (found .release 5).2.getLsbD 1 = false ∧ (found .commit 4).1.toNat % 8 ≠ 2 ∧ (found .hold 9).1.toNat % 8 = 0 ∧
      ((s .release 4 .reset).point 4).pending = false ∧
      ((s .release 4 { PointEntry.reset with pending := true, hold := true }).point 4).pending = true ∧
      ((s .commit 5 { PointEntry.reset with inFlight := true }).point 5).inFlight = true := by decide +kernel

/-- HOLD before and after a read; S moved by a release; T kept in flight; ENGINE RESET taken under each row's name, and
not taken while BUSY. -/
theorem witness_StablePageMovesOnlyWithItsCount :
    let held : State := State.reset.setPoint 255 { PointEntry.reset with hold := true, inFlight := true, transmit := true }
    let busy : State := holding (.pointRead .hold 4) held
    (held.point 255).hold = true ∧ (∃ t, exec .timeLowRead held = .next t) ∧
      ((after .timeLowRead held).point 255).hold = true ∧ (held.point 255).inFlight = true ∧
      Instr.timeLowRead ≠ .pinReset ∧ ¬writesEngineReset .timeLowRead ∧
      ((State.reset.setPoint 4 { PointEntry.reset with hold := true, pending := true }).release 4 12 true |>.point 4).stable =
        true ∧
      Ready held ∧
      (∀ c ∈ [Instr.engineReset, .undefinedCommand 7, .commandOverrun 7, .registerWrite 4 7, .readOnlyWrite 4 7,
          .unmappedAccess 4 (.write 7), .hostSharedMemoryAccess 4 (.write 7)],
        writesEngineReset c ∧ (after c held).point 255 = PointEntry.reset ∧ (after c busy).point 255 = held.point 255) ∧
      ¬Ready busy :=
  ⟨by decide +kernel, ⟨_, rfl⟩, by decide +kernel, by decide +kernel, by decide, by unfold writesEngineReset; decide,
    by decide +kernel, by decide, by unfold writesEngineReset; decide +kernel, by decide +kernel⟩

theorem witness_PostIsJudgedWhenItsCheckEnds :
    let s (p tag : BitVec 8) (high : Bool) (list : List Demand) (state : StationState) : State :=
      withStation 12 state { holding (.postCheck p high 1 tag) (example1 0) with demands := list }
    own (s 4 7 true [] .online) = true ∧ own (s 9 7 true [] .online) = true ∧
      (s 4 7 true [] .online).commandReadsOn 4700 = s 4 7 true [] .online ∧
      (s 4 7 true [] .online).cmd.held = some { args := State.reset.cmd.args, work := .postCheck 4 true 1 7 } ∧
      (s 9 7 true [] .online).commandFinds (checkRecord 9) = .error 14 ∧
      (s 4 7 true [] .online).commandFinds (checkRecord 4) = .ok point4 ∧
      ((s 4 7 true [] .off).station 12).state = .off ∧ point4.station ≠ 63 ∧
      ((s 4 7 true [] .online).station 12).state ≠ .off ∧
      8 ≤ (s 4 7 true (List.replicate 8 (demand false)) .online).demands.length ∧
      (s 4 8 true [demand false] .online).demands.length < 8 ∧ (demand false).point = 4 ∧ (demand false).tag = 7 := by
  decide +kernel

theorem witness_CancelRemovesAWaitingDemand :
    let s (inFlight : Bool) : State := withArgs 7 0 0 0 { State.reset with demands := [demand inFlight] }
    own (s false) = true ∧ own (s true) = true ∧ Ready (s false) ∧ DemandListInv (s false).demands ∧
      DemandListInv (s true).demands ∧
      255 < (withArgs 256 0 0 0 State.reset).cmd.args.arg0.toNat ∧ (s false).cmd.args.arg0.toNat ≤ 255 ∧
      (∀ d ∈ State.reset.demands, d.tag.toNat ≠ 7) ∧ demand false ∈ (s false).demands ∧ (demand false).tag.toNat = 7 ∧
      demand true ∈ (s true).demands := by
  refine ⟨rfl, rfl, ⟨rfl, rfl⟩, ⟨by decide, by decide, by decide, by decide, by decide⟩,
    ⟨by decide, by decide, by decide, by decide, by decide⟩, by decide, by decide, nofun, by decide, by decide, by decide⟩

/-! ## Witnesses: trunks -/

theorem witness_TrunkCommandsTakeEffectOrAreHeld :
    let x := transfer .sync none .gap
    own State.reset = true ∧ own (inTransfer x) = true ∧ Ready (withArgs 2 0 0 0 State.reset) ∧
      1 < (withArgs 2 0 0 0 State.reset).cmd.args.arg0.toNat ∧
      (withArgs 1 0 0 0 State.reset).cmd.args.arg0 = 1 ∧ Ready (inTransfer x) ∧ (inTransfer x).cmd.args.arg0 = 0 ∧
      (inTransfer x).xfer = some x ∧ x.trunk = .a ∧ (∀ y, State.reset.xfer = some y → y.trunk ≠ .a) ∧
      State.reset.trunkA.state = .off ∧ readyTrunk.state ≠ .off ∧ (∀ n, readyTrunk.burst ≠ .sending n) ∧
      (∃ n, (trainingTrunk (.sending 9)).burst = .sending n) :=
  ⟨rfl, rfl, ⟨rfl, rfl⟩, by decide, rfl, ⟨rfl, rfl⟩, rfl, rfl, rfl, fun _ h => absurd h (by simp [State.reset]), rfl, by decide,
    fun _ h => (by cases h), _, rfl⟩

theorem witness_BurstsFallDueAndWaitForQuiet :
    let s (burst : BurstPhase) : State := { State.reset with trunkB := trainingTrunk burst }
    own (s .none) = true ∧ own (s .waiting) = true ∧ ((s .none).trunk .b).state = .training ∧
      ((s .none).trunk .b).burstDue = some 1000 ∧
      ((1000 : TimeTag) - (s .none).time).toNat < 2147483648 ∧
      2147483648 ≤ ((1000 : TimeTag) - ({ s .none with time := 1001 }).time).toNat ∧
      ((s .waiting).trunk .b).burst = .waiting := by decide +kernel

theorem witness_TrainingEndsReadyOrFailed :
    let s (training : Nat) : State := { State.reset with trunkA := { trainingTrunk (.sending 9) with training } }
    (∀ n ∈ [0, 2, 3], own (s n) = true) ∧ own State.reset = true ∧ ((s 3).trunk .a).burst = .sending 9 ∧
      (((s 3).elapse 9).trunk .a).overlapped = false ∧
      (((after (.lineActivity { trunk := .a, activity := .noise }) (s 3)).elapse 9).trunk .a).overlapped = true ∧
      transmits (s 3) .a ∧ ¬transmits State.reset .a ∧ (((s 3).elapse 9).trunk .a).training = 3 ∧
      (∃ i < 120, ([] : List BitTime)[i]? ≠ (frameOnLine burstWords)[i]?) ∧
      (∀ i < 120, (frameOnLine burstWords)[i]? = (frameOnLine burstWords)[i]?) ∧
      (((s 2).elapse 9).trunk .a).training < 3 ∧ ((s 0).trunk .a).state = .training ∧ ((s 0).trunk .a).timer = some 90 ∧
      (∃ n, ((s 0).trunk .a).burst = .sending n) ∧ (∀ n, (trainingTrunk .waiting).burst ≠ .sending n) :=
  ⟨by decide, rfl, rfl, rfl, rfl, .inl ⟨_, rfl⟩,
    (by rintro (⟨_, h⟩ | ⟨_, _, _, _, _, _, h, _⟩) <;> cases h), rfl, ⟨0, by decide, by decide +kernel⟩, fun _ _ => rfl,
    by decide, rfl, rfl, ⟨_, rfl⟩, nofun⟩

/-! ## Witnesses: attempts and transfers -/

/-- A line that falls quiet at the end of the guard of 20 µs, and one that does not; a guard that runs out on a quiet
line and one that has lapsed. -/
theorem witness_CallGoesOutOrFindsTheLineOccupied :
    let gap (quiet : Nat) : State :=
      { inTransfer (transfer .point none .gap) with trunkA := { readyTrunk with gapHold := 16, quietHold := 8 + quiet } }
    let wait (quiet : Nat) (lapsed : Bool) : State :=
      { inTransfer (transfer .point none (.occupancy 5 lapsed)) with trunkA := { readyTrunk with quietHold := 8 + quiet } }
    let talker : Trunk := { readyTrunk with gapHold := 16, frameLeft := 7 }
    (∀ quiet ∈ [8, 28, 29], own (gap quiet) = true ∧ (gap quiet).xfer = some (transfer .point none .gap) ∧
      (gap quiet).gapLeft .a = 8 ∧ (gap quiet).quietLeft .a = quiet) ∧
      (∀ quiet ∈ [0, 5, 6], ∀ lapsed, own (wait quiet lapsed) = true ∧
        (wait quiet lapsed).xfer = some (transfer .point none (.occupancy 5 lapsed)) ∧
        (wait quiet lapsed).quietLeft .a = quiet) ∧
      (gap 28).trunkA.frameLeft = 0 ∧ talker.frameLeft < talker.gapHold - (16 - (gap 28).bitTimes 8) ∧
      (gap 28).set.occupancyGuard.toNat = 20 ∧
      ((gap 28).elapse 28).xfer = some (transfer .point none (.occupancy 0 false)) ∧
      ((gap 29).elapse 28).xfer = some (transfer .point none (.occupancy 0 true)) ∧
      ((wait 6 false).elapse 5).xfer = some (transfer .point none (.occupancy 0 true)) ∧
      ((wait 0 false).elapse 5).xfer = some (transfer .point none (.occupancy 0 false)) ∧
      (transfer .broadcast none .gap).station < 64 ∧
      (transfer .point none .gap).values = some point4 ∧ point4.outLength < 64 ∧
      ({ transfer .probe none .gap with toggle := false }).toggle = false := by decide +kernel

/-- A call with its echo as it was sent, silent, overlapped or not, and a call of two words under way. -/
theorem witness_EchoDecidesTheAttempt :
    let x (kind : TransferKind) := transfer kind none (.sending 10 0x30C0 0x0500 0 [])
    let s (kind : TransferKind) (overlapped : Bool) : State :=
      { inTransfer (x kind) with trunkA := { readyTrunk with overlapped } }
    let frame := frameOnLine (frameWords 0x30C0 0x0500 [])
    let y : Transfer := { x .point with values := some point5, phase := .sending 60 0x30C0 0x0502 2 [1] }
    (∀ kind ∈ [TransferKind.point, .probe, .broadcast, .sync], ∀ overlapped, own (s kind overlapped) = true ∧
      (s kind overlapped).xfer = some (x kind) ∧ (s kind overlapped).eng.active = some (plan .late) ∧
      ((s kind overlapped).elapse ((s kind overlapped).bitTimes 72 - 10)).xfer =
        some { x kind with phase := .sending 72 0x30C0 0x0500 0 [] } ∧
      (((s kind overlapped).elapse ((s kind overlapped).bitTimes 72 - 10)).trunk .a).overlapped = overlapped) ∧
      (∃ i < frame.length, ([] : List BitTime)[i]? ≠ frame[i]?) ∧ (∀ i < frame.length, frame[i]? = frame[i]?) ∧
      (inTransfer y).xfer = some y ∧ nothingWaits (inTransfer y) ∧ y.values = some point5 ∧
      ((inTransfer y).elapse 12).xfer = some { y with phase := .sending 72 0x30C0 0x0502 2 [1, 0] } := by decide +kernel

theorem witness_SyncMarkerBeginsTheReception :
    let x (kind : TransferKind) (left : Nat) := transfer kind none (.window left)
    (∀ kind ∈ [TransferKind.point, .probe], ∀ left ∈ [0, 1, 20],
      own (inTransfer (x kind left)) = true ∧ (inTransfer (x kind left)).xfer = some (x kind left)) ∧
      (x .point 20).phase = .window 20 ∧ (x .point 20).values = some point4 ∧
      point4.function ≠ .write ∧ (x .probe 20).kind ≠ .point ∧
      ({ point4 with function := .write }).function = .write := by decide +kernel

theorem witness_AnswerOrItsAbsenceEndsTheAttempt :
    let f : AnswerFrame := { words := [0x3220, 0x0800, 0x1111, 0x0001, 0], tailBits := 0, violation := true }
    let good : AnswerFrame := { words := [0x3020, 0x0000, crc16 [0x3020, 0x0000]], tailBits := 0, violation := false }
    let x (kind : TransferKind) (f : AnswerFrame) := transfer kind none (.receiving 3 f none 0)
    let y : Transfer := { transfer .point none (.receiving 40 good (some 6000) 0) with attempts := 1 }
    own (inTransfer (transfer .point none (.window 1))) = true ∧
      (inTransfer (transfer .point none (.window 1))).xfer = some (transfer .point none (.window 1)) ∧
      nothingWaits (inTransfer y) ∧ RamCanonical (inTransfer y) ∧ 6000 + y.inLength ≤ 16384 ∧
      (∀ kind ∈ [TransferKind.point, .probe], ∀ g ∈ [f, good], own (inTransfer (x kind g)) = true ∧
        (inTransfer (x kind g)).xfer = some (x kind g) ∧
        ((inTransfer (x kind g)).elapse (8 + 16 * g.words.length - 3)).xfer =
          some { x kind g with phase := .receiving (8 + 16 * g.words.length) g none (answerPayload g).length }) ∧
      (classify (x .probe f) f).condition = none ∧ (classify (x .probe good) good).condition ≠ none := by decide +kernel

theorem witness_AnswersAreClassifiedInOrder :
    let f (w0 : Word) : AnswerFrame := { words := [w0, 0x0000, crc16 [w0, 0x0000]], tailBits := 0, violation := false }
    (∀ b ∈ ([] : List BitTime).head?, b.boundary = false) ∧
      (∀ b ∈ [({ boundary := false, middle := true, stray := true } : BitTime)].head?, b.boundary = false) ∧
      ([0x3220] : List Word)[0]? = some 0x3220 ∧ ([0x3220, 0] : List Word).length < 3 ∧
      (f 0x3220).words = 0x3220 :: 0x0000 :: [crc16 [0x3220, 0x0000]] ∧ (f 0x3220).tailBits < 16 ∧
      answerGarbled (f 0x3220) = false ∧ answerGarbled { f 0x3220 with tailBits := 15 } = true ∧
      (0x3220 : Word).toNat / 1024 = (transfer .point none .gap).station ∧
      (0x5220 : Word).toNat / 1024 ≠ (transfer .point none .gap).station ∧ answerGarbled (f 0x5220) = false := by
  decide +kernel

/-- The relations of a READY trunk interface. -/
theorem readyTrunk_inv : TrunkInv readyTrunk := ⟨by decide, by decide, by decide, by decide, by decide⟩

/-- The fault below the limit of 3 and at it; a retry allowed and not; trunk B's turn and none. -/
theorem witness_AttemptEndIsReportedThenDecided :
    let x := transfer .point none .gap
    let s := inTransfer x
    let both : State := { s with trunkB := readyTrunk }
    s.trunk .a = readyTrunk ∧ TrunkInv readyTrunk ∧ readyTrunk.state = .ready ∧
      readyTrunk.faults + 1 < s.set.trunkFaultLimit.toNat ∧
      s.set.trunkFaultLimit.toNat ≤ ({ readyTrunk with faults := 2 }).faults + 1 ∧ s.cmd.held = none ∧
      (holding (.trunkHeld .off .a) s).cmd.held = some { args := s.cmd.args, work := .trunkHeld .off .a } ∧
      x.attempts < x.allowed ∧ ({ x with attempts := 2 }).allowed ≤ ({ x with attempts := 2 }).attempts ∧
      s.eng.timer ≠ .expired ∧ x.detached = false ∧ laterTrunk both x.policy x.trunk = some .b ∧
      laterTrunk s x.policy x.trunk = some .a ∧ laterTrunk State.reset x.policy x.trunk = none ∧
      both.trunkB.state = .ready ∧ s.trunkB.state ≠ .ready ∧
      (∀ kind ∈ [TransferKind.broadcast, .sync], (transfer kind none .gap).kind = kind ∧
        (transfer kind none .gap).trunk = .a ∧ ({ transfer kind none .gap with trunk := .b }).trunk = .b) :=
  ⟨rfl, readyTrunk_inv, rfl, by decide, by decide, rfl, rfl, by decide, by decide, by decide, rfl, rfl, rfl, rfl, rfl, by decide, by decide⟩

theorem witness_TransferEndReportsInOrder :
    let x := transfer .point (some 7) .gap
    let s : State := { inTransfer x with demands := [demand true] }
    x.values = some point4 ∧ x.kind = .point ∧ point4.function ≠ .write ∧ (s.point 4).hold = false ∧
      ((s.setPoint 4 { PointEntry.reset with hold := true }).point 4).hold = true ∧ point4.notify = true ∧
      point4.report = true ∧ x.demandTag = some 7 ∧ s.demandInFlight = some (demand true) ∧
      (transfer .broadcast none .gap).kind = .broadcast ∧ (transfer .broadcast none .gap).demandTag = none ∧
      (transfer .sync none .gap).kind = .sync ∧ (transfer .probe none .gap).kind = .probe ∧
      OutcomeCode.noTrunk ∉ [OutcomeCode.good, .goodRepeat, .busy, .sent] := by decide +kernel

/-! ## Witnesses: the invariants -/

/-- Right after reset a step on the empty queue answers a state, and every invariant of the RAM, the ring and the
stations holds there. -/
theorem witness_invariants_at_reset :
    RamCanonical State.reset ∧ RingInv State.reset.ring ∧ StationsInv State.reset ∧ PointsInv State.reset ∧
      CommandInv State.reset ∧ ∃ t, step State.reset = .next t :=
  ⟨rfl, ringInv_of _ (by decide), stationsInv_of_reset rfl,
    fun p h => by
      rw [show State.reset.point p = .reset from Vector.getElem_replicate _] at h
      exact absurd h (by decide),
    nofun, _, rfl⟩

/-- The engine and the attempt in a transfer in progress, with its demand IN FLIGHT. -/
theorem witness_EveryStepKeepsEngineAndDemands :
    let s : State := { inTransfer (transfer .point (some 7) .gap) with demands := [demand true] }
    DemandInv s ∧ AttemptInv s ∧ ∃ t, step s = .next t :=
  ⟨⟨⟨by decide, by decide, by decide, by decide, by decide, by decide, by decide⟩,
      ⟨by decide, by decide, by decide, by decide, by decide⟩, fun _ => .inr ⟨_, rfl, rfl⟩⟩,
    ⟨⟨readyTrunk_inv, ⟨by decide, by decide, by decide, by decide, by decide⟩⟩, fun x h => by cases h; rfl⟩, _, rfl⟩

theorem witness_EveryStepKeepsRegistersAndEntries : SettingsInv State.reset.set := by
  constructor <;> decide

end Sys2Proof.Tests
end

section
/-! GATES (R7). A command is a host bus cycle, which acts by its address alone, or it moves no setting at all. Of the bus
cycles only a write to the address of GATES reaches it, and only REGISTER_WRITE is a row for that write. -/

namespace Sys2Proof.Machine

/-! ## The rows that are host bus cycles -/

/-- The bus cycle of a row that acts by the address decode (R163); a row that names a command of the Command Unit or an
event of the part has none. -/
def busCycle : Instr → Option (HostAddress × Access)
  | .undefinedCommand code | .commandOverrun code => some (commandAddress, .write code)
  | .timeLowRead => some (timeLowAddress, .read)
  | .ringReadIndexWrite value => some (readIndexAddress, .write value)
  | .ringGeometryWrite register value => some (ringRegisterAddress register, .write value)
  | .irqCauseClear value => some (irqCauseAddress, .write value)
  | .hostErrorClear value => some (hostErrorAddress, .write value)
  | .stationConfigWrite word value => some (stationWordAddress word, .write value)
  | .readOnlyWrite address value | .registerWrite address value => some (address, .write value)
  | .unmappedAccess address access | .hostSharedMemoryAccess address access => some (address, access)
  | _ => none

/-- A row with a bus cycle is that access, after the grants before it. -/
theorem exec_of_busCycle {c : Instr} {a : HostAddress} {x : Access} (h : busCycle c = some (a, x)) (s : State) :
    exec c s = .next (s.served.hostAccess a x) := by
  cases c <;> cases h <;> rfl

/-- The transfer in progress leaves the settings alone if the work on it does. -/
@[simp] theorem State.onTransfer_set (s : State) (work : State → Transfer → State)
    (h : ∀ u x, (work u x).set = u.set) : (s.onTransfer work).set = s.set := by
  unfold State.onTransfer
  split
  · exact h _ _
  · rfl

/-- No row but a bus cycle and PIN_RESET moves a setting. -/
theorem exec_set_of_no_busCycle {c : Instr} {s t : State} (hc : busCycle c = none) (hp : c ≠ .pinReset)
    (h : exec c s = .next t) : t.set = s.set := by
  cases c with
  | pinReset => exact absurd rfl hp
  | start | step | stopRound | stopSweep | abort | clearHalt | engineReset | switchPlan | switchPlanCancel | validatePlan
  | stationEnable | stationDisable | pointHold | pointRelease | pointCommit | demandPost | demandCancel | trunkTrain
  | trunkOff =>
    obtain rfl := Host.Outcome.next.inj h
    rw [State.takeCommand_set _ _ _ (by simp)]
    simp
  | callTransmitStart | occupancyGuardExpiry | callEchoEnd | answerWindowClose | answerSyncDetected | answerReceived =>
    obtain rfl := Host.Outcome.next.inj h
    rw [State.onTransfer_set _ _ (by simp)]
    simp
  | abortComplete | engineResetComplete | planValidationDone | pointCommandReadDone | demandPostCheckDone | resetRelease
  | roundTimerExpiry | slotRecordReadDone | demandRecordReadDone | pauseEnd | trainingBurstDue | burstTransmitStart
  | burstEchoEnd | trainingTimerExpiry | eventRecordPublished | lineActivity =>
    obtain rfl := Host.Outcome.next.inj h
    simp
  | undefinedCommand | commandOverrun | timeLowRead | ringReadIndexWrite | ringGeometryWrite | irqCauseClear
  | hostErrorClear | stationConfigWrite | readOnlyWrite | registerWrite | unmappedAccess | hostSharedMemoryAccess =>
    exact nomatch hc

/-! ## What an access does to GATES -/

/-- Only host address 25h decodes to GATES (Table 11-1). -/
theorem registerAt_eq_gates {n : Nat} (h : registerAt n = some .gates) : n = 0x25 := by
  unfold registerAt at h
  split at h <;> cases h
  rfl

/-- A judged write leaves GATES alone if the accepted value does. -/
theorem State.judge_gates (s : State) {t : State} (accepted : Bool) (a : HostAddress) (e : HostError)
    (h : t.set.gates = s.set.gates) : (s.judge accepted a e t).set.gates = s.set.gates := by
  unfold State.judge
  split
  · exact h
  · rfl

/-- The owner of TRUNK RATE leaves GATES alone. -/
theorem State.writeTrunkRate_gates (s : State) (a : HostAddress) (v : Word) :
    (s.writeTrunkRate a v).set.gates = s.set.gates := by
  unfold State.writeTrunkRate
  split
  · rfl
  · exact s.judge_gates _ _ _ rfl

/-- A write to another register leaves GATES alone. -/
theorem State.writeRegister_gates (s : State) {r : Register} (a : HostAddress) (v : Word) (hr : r ≠ .gates) :
    (s.writeRegister r a v).set.gates = s.set.gates := by
  cases r with
  | gates => exact absurd rfl hr
  | planABase | planBBase | demandRetries | occupancyGuard | pointBase | pointCount | pointSelect | stationSelect
  | suspectAfter | absentAfter | confirmCount | probeInterval | trainingTimeout | trunkFaultLimit | ringWatermark =>
    exact s.judge_gates _ _ _ rfl
  | trunkRate => exact s.writeTrunkRate_gates a v
  | stationWindow i =>
    match i with
    | 0 | 1 | 2 | 3 | 4 | 5 => simp [State.writeRegister]
  | _ => simp [State.writeRegister]

/-- No access but a write to the address of GATES changes it. -/
theorem State.hostAccess_gates (s : State) {a : HostAddress} {x : Access} (h : a = 0x0025 → x = .read) :
    (s.hostAccess a x).set.gates = s.set.gates := by
  unfold State.hostAccess
  split
  · rfl
  · split
    next r hr =>
      cases x with
      | read => simp [State.registerAccess]
      | write v =>
        have hne : r ≠ .gates := by
          rintro rfl
          exact nomatch h (BitVec.eq_of_toNat_eq (registerAt_eq_gates hr))
        exact s.writeRegister_gates a v hne
    next => split <;> simp

/-- No well-formed row but the REGISTER_WRITE of GATES is a bus cycle that writes to its address. -/
theorem busCycle_at_gates_is_read {c : Instr} {x : Access} (hwf : c.wellFormed = true) (hc : ∀ v, c ≠ .registerWrite 0x0025 v)
    (h : busCycle c = some (0x0025, x)) : x = .read := by
  cases c with
  | registerWrite a v =>
    obtain ⟨rfl, -⟩ := Prod.mk.inj (Option.some.inj h)
    exact absurd rfl (hc v)
  | readOnlyWrite a _ | unmappedAccess a _ | hostSharedMemoryAccess a _ =>
    obtain ⟨rfl, -⟩ := Prod.mk.inj (Option.some.inj h)
    exact nomatch hwf
  | ringGeometryWrite register _ => cases register <;> exact nomatch h
  | stationConfigWrite word _ => cases word <;> exact nomatch h
  | _ => exact nomatch h

/-- No well-formed row but PIN_RESET and the REGISTER_WRITE of GATES changes it. -/
theorem exec_gates {c : Instr} {s t : State} (hwf : c.wellFormed = true) (hp : c ≠ .pinReset)
    (hc : ∀ v, c ≠ .registerWrite 0x0025 v) (h : exec c s = .next t) : t.set.gates = s.set.gates := by
  cases hb : busCycle c with
  | none => rw [exec_set_of_no_busCycle hb hp h]
  | some cycle =>
    obtain ⟨a, x⟩ := cycle
    rw [exec_of_busCycle hb] at h
    obtain rfl := Host.Outcome.next.inj h
    have hread : a = 0x0025 → x = .read := by
      rintro rfl
      exact busCycle_at_gates_is_read hwf hc hb
    simp [State.hostAccess_gates _ hread]

/-- The REGISTER_WRITE of GATES stores the eight low bits and changes nothing else (R7, R164). -/
theorem exec_registerWrite_gates (v : Word) {s : State} (hr : s.served.port.resetAsserted = false) :
    exec (.registerWrite 0x0025 v) s =
      .next { s.served with set := { s.served.set with gates := v.extractLsb' 0 8 } } := by
  rw [exec_of_busCycle rfl, State.hostAccess_write v hr (r := .gates) rfl, ← BitVec.setWidth_eq_extractLsb' (by decide)]
  rfl

/-- Settles O11: the write and the read are one register's; every other row keeps the gate bits by `exec_gates`. -/
theorem gatesBelongToTheHost : Obligations.GatesBelongToTheHost := by
  refine ⟨?_, ?_, ?_, rfl, fun c s t => exec_gates⟩
  · rintro v s₀ s rfl hr
    exact exec_registerWrite_gates v hr
  · intro s i
    show (s.set.gates.setWidth 16).getLsbD i = _
    rw [BitVec.getLsbD_setWidth]
    by_cases hi : i < 8
    · simp [hi, show i < 16 by omega]
    · simp [hi, BitVec.getLsbD_of_ge _ i (Nat.le_of_not_lt hi)]
  · intro s t h
    obtain rfl := Host.Outcome.next.inj h
    rfl

end Sys2Proof.Machine
end

section
/-! CLEAR_HALT (R30). A command that completes in the step that takes it leaves the state that `completed` names; from
there each engine state is one case of the owner. -/

namespace Sys2Proof.Machine

open Sys2Proof.Safety

/-! ## Commands that complete in the step that takes them (R173, R174) -/

/-- CMD RESULT and CMD DETAIL of a command just taken are the ones it completes with. -/
theorem State.complete_taken (s : State) (code : Word) (result : ResultCode) (detail : Word) :
    (taken s code).complete result detail = completed s code result detail := rfl

/-- A refusal of a command just taken gives the engine's state code as detail (R25 to R30). -/
theorem State.refuseEngine_taken {s : State} {e : EngineState} (code : Word) (h : s.eng.state = e) :
    (taken s code).refuseEngine = completed s code .refusedState (BitVec.ofNat 16 e.code) := by
  subst h
  rfl

/-- A change of engine state is the move whose detail gives the old state, the new state and the cause (R31). -/
theorem State.changeEngine_eq_engineMoves {s : State} {old : EngineState} (new : EngineState) (stop : StopPoint)
    (cause : Nat) (h : s.eng.state = old) :
    s.changeEngine new stop cause = engineMoves s new stop (stateChange old.code new.code cause) := by
  subst h
  rfl

/-! ## CLEAR HALT -/

/-- CLEAR HALT in HALTED: the halt cause, the engine's state with its event, the ENGINE cause, DONE. -/
theorem State.clearHalt_halted {s : State} (h : s.eng.state = .halted) :
    s.clearHalt =
      ((engineMoves { s with eng := { s.eng with halt := .none } } .idle .none 0x3009).raise causeEngine).complete
        .done 0 := by
  have hmoves := State.changeEngine_eq_engineMoves (s := { s with eng := { s.eng with halt := .none } }) .idle .none
    engineCauseClearHalt h
  unfold State.clearHalt
  rw [h]
  exact congrArg (fun u => (u.raise causeEngine).complete .done 0) hmoves

/-- CLEAR HALT in another state is refused. -/
theorem State.clearHalt_not_halted {s : State} (h : s.eng.state ≠ .halted) : s.clearHalt = s.refuseEngine := by
  unfold State.clearHalt
  split
  · exact absurd ‹_› h
  all_goals rfl

/-- CLEAR_HALT on a READY unit is taken, whatever was granted before it. -/
theorem exec_clearHalt_ready {s : State} (h : Ready s.served) :
    exec .clearHalt s = .next (taken s.served 0x0006).clearHalt := by
  obtain ⟨hport, hheld⟩ := h
  exact congrArg Host.Outcome.next (State.takeCommand_ready _ _ hport hheld)

/-- CLEAR_HALT outside HALTED is refused with the state's code and changes nothing else. -/
theorem exec_clearHalt_refused {s : State} {e : EngineState} (hready : Ready s.served) (he : s.served.eng.state = e)
    (hne : e ≠ .halted) :
    exec .clearHalt s = .next (completed s.served 0x0006 .refusedState (BitVec.ofNat 16 e.code)) := by
  have hnot : (taken s.served 0x0006).eng.state ≠ .halted := fun h => hne (he.symm.trans h)
  rw [exec_clearHalt_ready hready, State.clearHalt_not_halted hnot, State.refuseEngine_taken _ he]

/-- Settles O25: HALTED by `clearHalt_halted`, the other three states by `exec_clearHalt_refused`. -/
theorem clearHaltReturnsToIdle : Obligations.ClearHaltReturnsToIdle := by
  rintro s₀ s rfl hready
  refine ⟨?halted, ?idle, ?running, ?draining⟩
  case halted =>
    rintro hhalted u rfl
    rw [exec_clearHalt_ready hready, State.clearHalt_halted (s := taken s₀.served 0x0006) hhalted]
    -- The command's registers and the engine's move are apart: it is the same state whichever is written first.
    rfl
  case idle => exact fun h => exec_clearHalt_refused hready h (by decide)
  case running => exact fun h => exec_clearHalt_refused hready h (by decide)
  case draining => exact fun h => exec_clearHalt_refused hready h (by decide)

end Sys2Proof.Machine
end

section
/-! Unmapped accesses (R165) and the identity of the part (R177). Each row is its bus cycle, and the address decode says
which path that takes: nothing at all, or a register whose owner answers the read and refuses the write. -/

namespace Sys2Proof.Machine

/-! ## Unmapped accesses -/

/-- UNMAPPED_ACCESS below 4000h, where no register stands, reaches nothing, whatever was granted before it (R165). -/
theorem exec_unmappedAccess {a : HostAddress} (x : Access) {s : State} (hr : s.served.port.resetAsserted = false)
    (ha : a.toNat < 0x4000) (hn : registerAt a.toNat = none) :
    exec (.unmappedAccess a x) s = .next (s.served.unmappedAccess a x) := by
  rw [exec_of_busCycle rfl, State.hostAccess_unmapped x hr ha hn]

/-- Settles O6: both accesses reach nothing by `exec_unmappedAccess`; they differ in the word the read answers. -/
theorem unmappedAccessReachesNothing : Obligations.UnmappedAccessReachesNothing := by
  rintro a s₀ s rfl hr ha hn
  exact ⟨exec_unmappedAccess .read hr ha hn, fun v => exec_unmappedAccess (.write v) hr ha hn⟩

/-! ## Reads without a capture, and writes to read-only registers -/

/-- A read of any register but TIME LOW returns its word and changes nothing else (R164). -/
theorem State.hostAccess_read_answers {s : State} {a : HostAddress} {r : Register}
    (hr : s.port.resetAsserted = false) (h : registerAt a.toNat = some r) (hne : r ≠ .timeLow) :
    s.hostAccess a .read = s.answerRead (s.readRegister r) := by
  rw [State.hostAccess_read hr h]
  cases r with
  | timeLow => exact absurd rfl hne
  | _ => rfl

/-- The owner of a read-only register refuses every write with READ ONLY (R164). -/
theorem State.writeRegister_readOnly (s : State) {r : Register} (a : HostAddress) (v : Word)
    (h : r.readOnly = true) : s.writeRegister r a v = s.hostError .readOnly a := by
  cases r with
  | stationWindow i =>
    match i with
    | 0 | 1 => exact nomatch h
    | 2 | 3 | 4 | 5 => rfl
  | id | revision | cmdStatus | cmdResult | cmdDetail | hostErrorAddress | timeLow | timeHigh | engineStatus
  | enginePosition | sweepCount | transferStatus | transferPoint | pointWindow | demandStatus | trunkStatus
  | ringWriteIndex | ringStatus | droppedCount => rfl
  | _ => exact nomatch h

/-- READ_ONLY_WRITE of a read-only register is ignored with READ ONLY, whatever was granted before it (R164). -/
theorem exec_readOnlyWrite {a : HostAddress} {r : Register} (v : Word) {s : State}
    (hr : s.served.port.resetAsserted = false) (h : registerAt a.toNat = some r) (hro : r.readOnly = true) :
    exec (.readOnlyWrite a v) s = .next (s.served.hostError .readOnly a) := by
  rw [exec_of_busCycle rfl, State.hostAccess_write v hr h, State.writeRegister_readOnly _ a v hro]

/-! ## The identity of the part -/

/-- Settles O15: the two words are constants of `readRegister`; ID and REVISION are read without a capture and are
read-only. -/
theorem identityOfThePart : Obligations.IdentityOfThePart := by
  rintro s₀ s rfl
  refine ⟨rfl, rfl, fun hr v => ⟨?idRead, ?revisionRead, ?idWrite, ?revisionWrite⟩⟩
  case idRead => exact State.hostAccess_read_answers hr (r := .id) rfl nofun
  case revisionRead => exact State.hostAccess_read_answers hr (r := .revision) rfl nofun
  case idWrite => exact exec_readOnlyWrite v hr (r := .id) rfl rfl
  case revisionWrite => exact exec_readOnlyWrite v hr (r := .revision) rfl rfl

end Sys2Proof.Machine
end

/-! The other statements: the invariants, the port, the ring, the engine, the transfers and the lines. -/
section

-- One proof at a time: elaborated side by side, each would keep a thread of its own waiting for the kernel.
set_option Elab.async false

section
/-! The rows as host accesses. Every command row but SWITCH_PLAN_CANCEL is a host write of its code to COMMAND, so an
invariant of the part has to be proved of an access once, and then of the part's own events. -/

namespace Sys2Proof.Machine

open Sys2Proof.Safety

/-- The code that a command row writes to COMMAND (Table 11-5). SWITCH_PLAN_CANCEL also fixes its operand, so it is no
bare write (assumption 5). -/
def commandCode : Instr → Option Word
  | .start => some 0x0001
  | .step => some 0x0002
  | .stopRound => some 0x0003
  | .stopSweep => some 0x0004
  | .abort => some 0x0005
  | .clearHalt => some 0x0006
  | .engineReset => some 0x0007
  | .switchPlan => some 0x0010
  | .validatePlan => some 0x0011
  | .stationEnable => some 0x0020
  | .stationDisable => some 0x0021
  | .pointHold => some 0x0030
  | .pointRelease => some 0x0031
  | .pointCommit => some 0x0032
  | .demandPost => some 0x0040
  | .demandCancel => some 0x0041
  | .trunkTrain => some 0x0050
  | .trunkOff => some 0x0051
  | _ => none

/-- A row with a code is the host's write of it to COMMAND, after the grants before it (R173). -/
theorem exec_of_commandCode {c : Instr} {code : Word} (h : commandCode c = some code) (s : State) :
    exec c s = .next (s.served.writeCommand code) := by
  cases c <;> cases h <;> rfl

/-- A write to COMMAND is an access to its address, also while RESET is asserted, where neither does anything. -/
theorem State.writeCommand_eq_hostAccess (s : State) (code : Word) :
    s.writeCommand code = s.hostAccess commandAddress (.write code) := by
  cases hr : s.port.resetAsserted with
  | false => exact (State.hostAccess_write code hr (r := .command) rfl).symm
  | true => rw [State.hostAccess_reset _ _ hr, State.writeCommand, State.takeCommand, if_pos hr]

/-- The bus cycles that write the code of ENGINE RESET to COMMAND are those of `writesEngineReset` (assumption 6). -/
theorem writesEngineReset_of_busCycle {c : Instr} (h : busCycle c = some (commandAddress, .write 0x0007)) :
    writesEngineReset c := by
  cases c with
  | undefinedCommand code | commandOverrun code =>
    obtain ⟨-, hx⟩ := Prod.mk.inj (Option.some.inj h)
    obtain rfl := Access.write.inj hx
    simp [writesEngineReset]
  | registerWrite a v | readOnlyWrite a v =>
    obtain ⟨rfl, hx⟩ := Prod.mk.inj (Option.some.inj h)
    obtain rfl := Access.write.inj hx
    simp [writesEngineReset, commandAddress]
  | unmappedAccess a x | hostSharedMemoryAccess a x =>
    obtain ⟨rfl, rfl⟩ := Prod.mk.inj (Option.some.inj h)
    simp [writesEngineReset, commandAddress]
  | ringGeometryWrite r =>
    have ha := (Prod.mk.inj (Option.some.inj h)).1
    cases r <;> exact absurd ha (by decide)
  | stationConfigWrite w =>
    have ha := (Prod.mk.inj (Option.some.inj h)).1
    cases w <;> exact absurd ha (by decide)
  | timeLowRead | ringReadIndexWrite | irqCauseClear | hostErrorClear =>
    exact absurd (Prod.mk.inj (Option.some.inj h)).1 (by decide)
  | _ => exact nomatch h

/-- Of the command rows only ENGINE_RESET has its code. -/
theorem writesEngineReset_of_commandCode {c : Instr} (h : commandCode c = some 0x0007) : writesEngineReset c := by
  cases c with
  | engineReset => exact List.mem_cons_self
  | start | step | stopRound | stopSweep | abort | clearHalt | switchPlan | validatePlan | stationEnable | stationDisable
  | pointHold | pointRelease | pointCommit | demandPost | demandCancel | trunkTrain | trunkOff =>
    exact absurd (Option.some.inj h) (by decide)
  | _ => exact nomatch h

/-- A row that the host brings about has a bus cycle or writes a code to COMMAND, but for the one that fixes its operand
too (assumption 5). -/
theorem isHostAccess_cases {c : Instr} (h : isHostAccess c = true) :
    (∃ a x, busCycle c = some (a, x)) ∨ (∃ code, commandCode c = some code) ∨ c = .switchPlanCancel := by
  cases c with
  | switchPlanCancel => exact .inr (.inr rfl)
  | undefinedCommand | commandOverrun | timeLowRead | ringReadIndexWrite | ringGeometryWrite | irqCauseClear
  | hostErrorClear | stationConfigWrite | readOnlyWrite | registerWrite | unmappedAccess
  | hostSharedMemoryAccess => exact .inl ⟨_, _, rfl⟩
  | start | step | stopRound | stopSweep | abort | clearHalt | engineReset | switchPlan | validatePlan
  | stationEnable | stationDisable | pointHold | pointRelease | pointCommit | demandPost | demandCancel
  | trunkTrain | trunkOff => exact .inr (.inl ⟨_, rfl⟩)
  | _ => exact nomatch h

/-- A row that the host brings about is an access of its, or cancels a pending switch (R163, R173; assumption 5). -/
theorem exec_of_isHostAccess {c : Instr} (h : isHostAccess c = true) (s : State) :
    (∃ a x, (a = commandAddress → x = .write 0x0007 → writesEngineReset c) ∧
      exec c s = .next (s.served.hostAccess a x)) ∨
        exec c s = .next (s.served.takeCommand 0x0010 State.cancelSwitch) := by
  obtain ⟨a, x, hb⟩ | ⟨code, hc⟩ | rfl := isHostAccess_cases h
  · refine .inl ⟨a, x, fun ha hx => writesEngineReset_of_busCycle ?_, exec_of_busCycle hb s⟩
    rw [hb, ha, hx]
  · refine .inl ⟨commandAddress, .write code, fun _ hx => writesEngineReset_of_commandCode ?_, ?_⟩
    · rw [hc, Access.write.inj hx]
    · rw [exec_of_commandCode hc, State.writeCommand_eq_hostAccess]
  · exact .inr rfl

/-- The effect of the rows that are events of the part or edges of RESET, on the state after the grants before them;
RESET_RELEASE has none (R176). -/
def partEvent (c : Instr) (s : State) : State :=
  match c with
  | .abortComplete => s.abortComplete
  | .engineResetComplete => s.engineResetComplete
  | .planValidationDone => s.endValidation
  | .pointCommandReadDone => s.endPointRead
  | .demandPostCheckDone => s.endPostCheck
  | .pinReset => s.pinReset
  | .roundTimerExpiry => s.roundTimerEnds
  | .slotRecordReadDone => s.endSlotRead
  | .demandRecordReadDone => s.endDemandRead
  | .pauseEnd => s.endPause
  | .callTransmitStart => s.onTransfer State.startCall
  | .occupancyGuardExpiry => s.onTransfer State.endGuard
  | .callEchoEnd heard => s.onTransfer (fun s => s.endCall heard)
  | .answerWindowClose => s.onTransfer State.endWindow
  | .answerSyncDetected line => s.onTransfer (fun s => s.detectSync (receiveFrame line))
  | .answerReceived => s.onTransfer State.endReception
  | .trainingBurstDue t => s.burstFallsDue t
  | .burstTransmitStart t => s.startBurst t
  | .burstEchoEnd t heard => s.endBurst t heard
  | .trainingTimerExpiry t => s.trainingExpires t
  | .eventRecordPublished => s.publish
  | .lineActivity heard => s.lineActivity heard.trunk heard.activity
  | _ => s

/-- A row that the host does not bring about is its event after the grants, or RESET_RELEASE. -/
theorem exec_of_partEvent {c : Instr} (h : isHostAccess c = false) (hr : c ≠ .resetRelease) (s : State) :
    exec c s = .next (partEvent c s.served) := by
  cases c with
  | resetRelease => exact absurd rfl hr
  | abortComplete | engineResetComplete | planValidationDone | pointCommandReadDone | demandPostCheckDone | pinReset
  | roundTimerExpiry | slotRecordReadDone | demandRecordReadDone | pauseEnd | callTransmitStart | occupancyGuardExpiry
  | callEchoEnd | answerWindowClose | answerSyncDetected | answerReceived | trainingBurstDue | burstTransmitStart
  | burstEchoEnd | trainingTimerExpiry | eventRecordPublished | lineActivity => rfl
  | _ => exact nomatch h

/-! ## From what stands before a row to what stands after it -/

/-- Whatever event of the part but PIN_RESET happens in a state of `P`, the state after it is one of `Q`: a clause for
what each comes to after the time still missing, and one for the events that cannot arise (assumption 4). -/
structure EventsLead (P Q : State → Prop) : Prop where
  stays : ∀ s, P s → Q s
  resetRelease : ∀ s, P s → Q s.resetRelease
  quietComes : ∀ s n, P s → Q ((s.elapse n).complete .done 0)
  validation : ∀ s forSwitch bank base, P s → Q (s.validationDone forSwitch bank base)
  pointRead : ∀ s command p, P s → Q (s.pointReadDone command p)
  postCheck : ∀ s p high deadline tag, P s → Q (s.postCheckDone p high deadline tag)
  roundTimer : ∀ s n, P s → s.eng.timer = .running n → Q (s.elapse n).timerExpired
  slotRead : ∀ s n, P s → s.eng.phase = .reading n → Q (s.slotReadDone n)
  demandRead : ∀ s n, P s → s.eng.phase = .demandReading n → Q (s.demandReadDone n)
  pause : ∀ s n, P s → s.eng.phase = .pausing n → Q (s.elapse n).endSlot
  callStart : ∀ s x n y, P s → s.xfer = some x → (s.elapse n).xfer = some y → Q ((s.elapse n).sendCall y)
  attemptEnd : ∀ s x n y outcome, P s → s.xfer = some x → (s.elapse n).xfer = some y →
    Q ((s.elapse n).endAttempt y outcome none)
  echo : ∀ s x n y h0 h1 payload judged, P s → s.xfer = some x → (s.elapse n).xfer = some y →
    Q ((s.elapse n).echoEnd y h0 h1 payload judged)
  sync : ∀ s x frame, P s → s.xfer = some x → Q (s.answerSync x frame)
  lateAnswer : ∀ s x frame, P s → s.xfer = some x → Q (s.hearLateAnswer x frame)
  answer : ∀ s x n y frame, P s → s.xfer = some x → (s.elapse n).xfer = some y → Q ((s.elapse n).answerEnd y frame)
  burstDue : ∀ s t n due, P s → (s.trunk t).state = .training →
    Q ((s.elapse n).setTrunk t (((s.elapse n).trunk t).burstFallsDue due))
  burstStart : ∀ s t n, P s → (s.trunk t).burst = .waiting → Q ((s.elapse n).sendBurst t)
  burstEnd : ∀ s t n judged, P s → (s.trunk t).burst = .sending n → Q ((s.elapse n).judgeBurst t judged)
  trainingTimer : ∀ s t n, P s → (s.trunk t).state = .training → Q ((s.elapse n).failTraining t)
  published : ∀ s, P s → Q s.publish
  activity : ∀ s t a, P s → Q (s.lineActivity t a)

/-- Whatever row but PIN_RESET is executed on a state of `P`, the state after it is one of `Q`: the events, an access, and
a cancelled switch. -/
structure RowsLead (P Q : State → Prop) : Prop extends EventsLead P Q where
  served : ∀ s, P s → P s.served
  access : ∀ s a x, P s → Q (s.hostAccess a x)
  cancelSwitch : ∀ s, P s → Q (s.takeCommand 0x0010 State.cancelSwitch)

/-- The events of the part but PIN_RESET lead from `P` to `Q`: each does nothing, or is the clause of its name. -/
theorem EventsLead.partEvent {P Q : State → Prop} (l : EventsLead P Q) {c : Instr} (hp : c ≠ .pinReset) {s : State} (h : P s) :
    Q (partEvent c s) := by
  cases c with
  | pinReset => exact absurd rfl hp
  | abortComplete =>
    obtain e | ⟨n, e⟩ := s.abortComplete_cases
    · exact (congrArg Q e).mpr (l.stays s h)
    · exact (congrArg Q e).mpr (l.quietComes s n h)
  | engineResetComplete =>
    obtain e | ⟨n, e⟩ := s.engineResetComplete_cases
    · exact (congrArg Q e).mpr (l.stays s h)
    · exact (congrArg Q e).mpr (l.quietComes s n h)
  | planValidationDone =>
    obtain e | ⟨forSwitch, bank, base, e⟩ := s.endValidation_cases
    · exact (congrArg Q e).mpr (l.stays s h)
    · exact (congrArg Q e).mpr (l.validation s forSwitch bank base h)
  | pointCommandReadDone =>
    obtain e | ⟨command, p, e⟩ := s.endPointRead_cases
    · exact (congrArg Q e).mpr (l.stays s h)
    · exact (congrArg Q e).mpr (l.pointRead s command p h)
  | demandPostCheckDone =>
    obtain e | ⟨p, high, deadline, tag, e⟩ := s.endPostCheck_cases
    · exact (congrArg Q e).mpr (l.stays s h)
    · exact (congrArg Q e).mpr (l.postCheck s p high deadline tag h)
  | roundTimerExpiry =>
    obtain e | ⟨n, ht, e⟩ := s.roundTimerEnds_cases
    · exact (congrArg Q e).mpr (l.stays s h)
    · exact (congrArg Q e).mpr (l.roundTimer s n h ht)
  | slotRecordReadDone =>
    obtain e | ⟨n, hr, e⟩ := s.endSlotRead_cases
    · exact (congrArg Q e).mpr (l.stays s h)
    · exact (congrArg Q e).mpr (l.slotRead s n h hr)
  | demandRecordReadDone =>
    obtain e | ⟨n, hr, e⟩ := s.endDemandRead_cases
    · exact (congrArg Q e).mpr (l.stays s h)
    · exact (congrArg Q e).mpr (l.demandRead s n h hr)
  | pauseEnd =>
    obtain e | ⟨n, hr, e⟩ := s.endPause_cases
    · exact (congrArg Q e).mpr (l.stays s h)
    · exact (congrArg Q e).mpr (l.pause s n h hr)
  | callTransmitStart =>
    obtain e | ⟨x, n, y, hx, -, hy, e⟩ := s.startCall_cases
    · exact (congrArg Q e).mpr (l.stays s h)
    · exact (congrArg Q e).mpr (l.callStart s x n y h hx hy)
  | occupancyGuardExpiry =>
    obtain e | ⟨x, n, y, hx, -, hy, e⟩ := s.endGuard_cases
    · exact (congrArg Q e).mpr (l.stays s h)
    · exact (congrArg Q e).mpr (l.attemptEnd s x n y .occupied h hx hy)
  | callEchoEnd heard =>
    obtain e | ⟨x, n, y, h0, h1, payload, judged, hx, hy, e⟩ := s.endCall_cases heard
    · exact (congrArg Q e).mpr (l.stays s h)
    · exact (congrArg Q e).mpr (l.echo s x n y h0 h1 payload judged h hx hy)
  | answerWindowClose =>
    obtain e | ⟨x, n, y, hx, hy, e⟩ := s.endWindow_cases
    · exact (congrArg Q e).mpr (l.stays s h)
    · exact (congrArg Q e).mpr (l.attemptEnd s x n y .noAnswer h hx hy)
  | answerSyncDetected line =>
    obtain e | ⟨x, hx, e | e⟩ := s.detectSync_cases (receiveFrame line)
    · exact (congrArg Q e).mpr (l.stays s h)
    · exact (congrArg Q e).mpr (l.sync s x (receiveFrame line) h hx)
    · exact (congrArg Q e).mpr (l.lateAnswer s x (receiveFrame line) h hx)
  | answerReceived =>
    obtain e | ⟨x, n, y, frame, hx, hy, e⟩ := s.endReception_cases
    · exact (congrArg Q e).mpr (l.stays s h)
    · exact (congrArg Q e).mpr (l.answer s x n y frame h hx hy)
  | trainingBurstDue t =>
    obtain e | ⟨n, due, ht, -, e⟩ := s.burstFallsDue_cases t
    · exact (congrArg Q e).mpr (l.stays s h)
    · exact (congrArg Q e).mpr (l.burstDue s t n due h ht)
  | burstTransmitStart t =>
    obtain e | ⟨n, hb, e⟩ := s.startBurst_cases t
    · exact (congrArg Q e).mpr (l.stays s h)
    · exact (congrArg Q e).mpr (l.burstStart s t n h hb)
  | burstEchoEnd t heard =>
    obtain e | ⟨n, judged, hb, e⟩ := s.endBurst_cases t heard
    · exact (congrArg Q e).mpr (l.stays s h)
    · exact (congrArg Q e).mpr (l.burstEnd s t n judged h hb)
  | trainingTimerExpiry t =>
    obtain e | ⟨n, ht, -, e⟩ := s.trainingExpires_cases t
    · exact (congrArg Q e).mpr (l.stays s h)
    · exact (congrArg Q e).mpr (l.trainingTimer s t n h ht)
  | eventRecordPublished => exact l.published s h
  | lineActivity heard => exact l.activity s heard.trunk heard.activity h
  | _ => exact l.stays s h

/-- The rows that the host does not bring about lead from `P` to `Q`, where the grants before them keep `P`. -/
theorem EventsLead.exec {P Q : State → Prop} (l : EventsLead P Q) (hserved : ∀ s, P s → P s.served) {c : Instr}
    {s t : State} (hh : isHostAccess c = false) (hp : c ≠ .pinReset) (h : P s) (e : exec c s = .next t) : Q t := by
  by_cases hr : c = .resetRelease
  · subst hr
    obtain rfl := Host.Outcome.next.inj e
    exact l.resetRelease s h
  · obtain rfl := Host.Outcome.next.inj (exec_of_partEvent hh hr s ▸ e)
    exact l.partEvent hp (hserved s h)

/-- Every row but PIN_RESET leads from `P` to `Q`. -/
theorem RowsLead.exec {P Q : State → Prop} (l : RowsLead P Q) {c : Instr} {s t : State} (hp : c ≠ .pinReset) (h : P s)
    (e : exec c s = .next t) : Q t := by
  cases hh : isHostAccess c with
  | false => exact l.toEventsLead.exec l.served hh hp h e
  | true =>
    obtain ⟨a, x, -, he⟩ | he := exec_of_isHostAccess hh s
    · obtain rfl := Host.Outcome.next.inj (he.symm.trans e)
      exact l.access _ a x (l.served s h)
    · obtain rfl := Host.Outcome.next.inj (he.symm.trans e)
      exact l.cancelSwitch _ (l.served s h)

/-- What the rows keep, PIN_RESET sets up and time keeps, every step keeps. -/
theorem RowsLead.step {P : State → Prop} (l : RowsLead P P) (hqueue : ∀ s q, P s → P { s with pending := q })
    (htime : ∀ s n, P s → P (s.elapse n)) (hreset : ∀ s, P s → P s.pinReset) {s t : State} (h : P s)
    (e : step s = .next t) : P t := by
  refine step_keeps hqueue l.served htime (fun c s t h e => ?_) h e
  by_cases hp : c = .pinReset
  · subst hp
    obtain rfl := Host.Outcome.next.inj e
    exact hreset _ (l.served s h)
  · exact l.exec hp h e

end Sys2Proof.Machine
end

section
/-! What every row keeps of the RAM, the ring and the station table. Accesses and the shared operations are settled by
the layers below; here each clause of the rows is one of them after a stretch of time. -/

namespace Sys2Proof.Machine

open Sys2Proof.Safety

/-! ## The RAM -/

/-- Every row keeps the RAM's canonical form. -/
theorem rows_ramCanonical : RowsLead RamCanonical RamCanonical where
  stays _ h := h
  served _ h := State.served_wf h
  access _ a x h := State.hostAccess_wf a x h
  cancelSwitch _ h := by simpa [RamCanonical] using h
  resetRelease _ h := h
  quietComes _ n h := by simpa [RamCanonical] using State.elapse_wf n h
  validation _ _ _ _ h := by
    rw [State.validationDone]
    simpa [RamCanonical] using State.commandReadsOn_wf Config.readLimit h
  pointRead _ _ _ h := by
    rw [State.pointReadDone]
    simpa [RamCanonical] using State.commandReadsOn_wf Config.readLimit h
  postCheck _ _ _ _ _ h := by
    rw [State.postCheckDone]
    simpa [RamCanonical] using State.commandReadsOn_wf Config.readLimit h
  roundTimer _ n h _ := by simpa [RamCanonical] using State.elapse_wf n h
  slotRead _ _ h _ := by
    rw [State.slotReadDone]
    simpa [RamCanonical] using State.engineReadsOn_wf Config.readLimit h
  demandRead _ _ h _ := by
    rw [State.demandReadDone]
    simpa [RamCanonical] using State.engineReadsOn_wf Config.readLimit h
  pause _ n h _ := by simpa [RamCanonical] using State.elapse_wf n h
  callStart _ _ n _ h _ _ := by simpa [RamCanonical] using State.elapse_wf n h
  attemptEnd _ _ n _ _ h _ _ := by simpa [RamCanonical] using State.elapse_wf n h
  echo _ _ n _ _ _ _ _ h _ _ := by simpa [RamCanonical] using State.elapse_wf n h
  sync _ _ _ h _ := by simpa [RamCanonical] using h
  lateAnswer _ _ _ h _ := by simpa [RamCanonical] using h
  answer _ _ n _ _ h _ _ := by simpa [RamCanonical] using State.elapse_wf n h
  burstDue _ _ n _ h _ := by simpa [RamCanonical] using State.elapse_wf n h
  burstStart _ _ n h _ := by simpa [RamCanonical] using State.elapse_wf n h
  burstEnd _ _ n _ h _ := by simpa [RamCanonical] using State.elapse_wf n h
  trainingTimer _ _ n h _ := by simpa [RamCanonical] using State.elapse_wf n h
  published _ h := State.publish_wf h
  activity _ _ _ h := by simpa [RamCanonical] using h

/-- Settles O55: grants, time and stores keep the canonical form, and pin reset leaves the RAM alone. -/
theorem everyStepKeepsTheRamCanonical : Obligations.EveryStepKeepsTheRamCanonical := fun _ _ =>
  rows_ramCanonical.step (fun _ _ h => h) (fun _ n h => State.elapse_wf n h)
    (fun _ h => by simpa [RamCanonical] using h)

/-! ## The ring -/

/-- The ring after pin reset: sixteen empty entries at address 0. -/
theorem Ring.reset_inv : RingInv .reset := by
  constructor <;> decide

/-- The state's ring meets its invariant. -/
def RingKept (s : State) : Prop := RingInv s.ring

/-- Every row keeps the ring inside its bounds: it leaves the ring alone, reports events, publishes, or is a write of
the host to the ring's registers. -/
theorem rows_ringInv : RowsLead RingKept RingKept where
  stays _ h := h
  served _ h := by simpa [RingKept] using h
  access _ a x h := State.hostAccess_ringInv a x h
  cancelSwitch _ h := by simpa [RingKept] using h
  resetRelease _ h := h
  quietComes _ _ h := by simpa [RingKept] using h
  validation _ _ _ _ h := State.validationDone_ringInv _ _ _ h
  pointRead _ _ _ h := State.pointReadDone_ringInv _ _ h
  postCheck _ _ _ _ _ h := by simpa [RingKept] using h
  roundTimer s n h _ := State.timerExpired_ringInv (s := s.elapse n) (by simpa [RingKept] using h)
  slotRead _ _ h _ := State.slotReadDone_ringInv _ h
  demandRead _ _ h _ := State.demandReadDone_ringInv _ h
  pause s n h _ := State.endSlot_ringInv (s := s.elapse n) (by simpa [RingKept] using h)
  callStart _ _ _ _ h _ _ := by simpa [RingKept] using h
  attemptEnd s _ n _ _ h _ _ := State.endAttempt_ringInv (s := s.elapse n) _ _ _ (by simpa [RingKept] using h)
  echo s _ n _ _ _ _ _ h _ _ := State.echoEnd_ringInv (s := s.elapse n) _ _ _ _ _ (by simpa [RingKept] using h)
  sync _ _ _ h _ := by simpa [RingKept] using h
  lateAnswer _ _ _ h _ := by simpa [RingKept] using h
  answer s _ n _ _ h _ _ := State.answerEnd_ringInv (s := s.elapse n) _ _ (by simpa [RingKept] using h)
  burstDue _ _ _ _ h _ := by simpa [RingKept] using h
  burstStart _ _ _ h _ := by simpa [RingKept] using h
  burstEnd s _ n _ h _ := State.judgeBurst_ringInv (s := s.elapse n) _ _ (by simpa [RingKept] using h)
  trainingTimer s _ n h _ := State.failTraining_ringInv (s := s.elapse n) _ (by simpa [RingKept] using h)
  published _ h := State.publish_ringInv h
  activity _ _ _ h := by simpa [RingKept] using h

/-- Settles O56: the rows keep the ring's bounds, and pin reset empties it at its reset place. -/
theorem everyStepKeepsTheRing : Obligations.EveryStepKeepsTheRing := fun _ _ =>
  rows_ringInv.step (fun _ _ h => h) (fun _ _ h => by simpa [RingKept] using h) (fun _ _ => Ring.reset_inv)

/-! ## The station table -/

/-- Every row keeps the counts of every station record in step with its state. -/
theorem rows_stationsInv : RowsLead StationsInv StationsInv where
  stays _ h := h
  served _ h := h.congr (by simp)
  access _ a x h := State.hostAccess_stationsInv a x h
  cancelSwitch _ h := h.congr (by simp)
  resetRelease _ h := h.congr (by simp)
  quietComes _ _ h := h.congr (by simp)
  validation _ _ _ _ h := h.congr (by simp)
  pointRead _ _ _ h := h.congr (by simp)
  postCheck _ _ _ _ _ h := h.congr (by simp)
  roundTimer s n h _ := State.timerExpired_stationsInv (s := s.elapse n) (h.congr (by simp))
  slotRead _ n h _ := State.slotReadDone_stationsInv n h
  demandRead _ n h _ := State.demandReadDone_stationsInv n h
  pause s n h _ := State.endSlot_stationsInv (s := s.elapse n) (h.congr (by simp))
  callStart _ _ _ _ h _ _ := h.congr (by simp)
  attemptEnd s _ n _ _ h _ _ := State.endAttempt_stationsInv (s := s.elapse n) _ _ _ (h.congr (by simp))
  echo s _ n _ _ _ _ _ h _ _ := State.echoEnd_stationsInv (s := s.elapse n) _ _ _ _ _ (h.congr (by simp))
  sync _ _ _ h _ := h.congr (by simp)
  lateAnswer _ _ _ h _ := h.congr (by simp)
  answer s _ n _ _ h _ _ := State.endAttempt_stationsInv (s := s.elapse n) _ _ _ (h.congr (by simp))
  burstDue _ _ _ _ h _ := h.congr (by simp)
  burstStart _ _ _ h _ := h.congr (by simp)
  burstEnd _ _ _ _ h _ := h.congr (by simp)
  trainingTimer _ _ _ h _ := h.congr (by simp)
  published _ h := h.congr (by simp)
  activity _ _ _ h := h.congr (by simp)

/-- Settles O57: the rows keep the records, time leaves them alone, and pin reset puts every station OFF. -/
theorem everyStepKeepsTheStations : Obligations.EveryStepKeepsTheStations := fun _ _ =>
  rows_stationsInv.step (fun _ _ h => h.congr rfl) (fun _ _ h => h.congr (by simp)) (fun _ _ => stationsInv_of_reset rfl)

end Sys2Proof.Machine
end

section
/-! What every row keeps of the trunks and the attempt in flight: each interface meets its invariant, and an attempt is
on a READY trunk. The two belong together, for a trunk in training carries no attempt. -/

namespace Sys2Proof.Machine

open Sys2Proof.Safety

/-! ## Accesses are commands, or leave the blocks of the engine alone -/

/-- The two states agree on the engine, its transfer and demands, the points, the trunks and the command unit's
progress. -/
structure SameWork (s u : State) : Prop where
  eng : u.eng = s.eng
  xfer : u.xfer = s.xfer
  points : u.points = s.points
  demands : u.demands = s.demands
  trunkA : u.trunkA = s.trunkA
  trunkB : u.trunkB = s.trunkB
  held : u.cmd.held = s.cmd.held
  result : u.cmd.result = s.cmd.result
  detail : u.cmd.detail = s.cmd.detail

/-- A write that is judged leaves the work alone if the accepted one does. -/
theorem State.judge_sameWork {s t : State} (accepted : Bool) (a : HostAddress) (e : HostError) (h : SameWork s t) :
    SameWork s (s.judge accepted a e t) := by
  unfold State.judge
  split
  · exact h
  · constructor <;> simp

/-- A write to a register other than COMMAND leaves the work alone. -/
theorem State.writeRegister_sameWork (s : State) {r : Register} (a : HostAddress) (v : Word) (hr : r ≠ .command) :
    SameWork s (s.writeRegister r a v) := by
  cases r with
  | command => exact absurd rfl hr
  | planABase | planBBase | demandRetries | occupancyGuard | pointBase | pointCount | pointSelect | stationSelect
  | suspectAfter | absentAfter | confirmCount | probeInterval | trainingTimeout | trunkFaultLimit | ringWatermark =>
    exact State.judge_sameWork _ _ _ (by constructor <;> rfl)
  | stationWindow i =>
    match i with
    | 0 | 1 | 2 | 3 | 4 | 5 => constructor <;> simp [State.writeRegister]
  | cmdArg i => constructor <;> rfl
  | _ => constructor <;> simp [State.writeRegister]

/-- Only host address 4 decodes to COMMAND (Table 11-1). -/
theorem registerAt_eq_command {a : HostAddress} (h : registerAt a.toNat = some .command) : a = commandAddress := by
  apply BitVec.eq_of_toNat_eq
  unfold registerAt at h
  split at h <;> cases h
  assumption

/-- An access is a write to COMMAND, or leaves the work alone. -/
theorem State.hostAccess_cases (s : State) (a : HostAddress) (x : Access) :
    (∃ code, a = commandAddress ∧ x = .write code ∧ s.hostAccess a x = s.writeCommand code) ∨
      SameWork s (s.hostAccess a x) := by
  unfold State.hostAccess
  split
  · exact .inr (by constructor <;> rfl)
  · split
    next r hr' =>
      cases x with
      | read => exact .inr (by constructor <;> simp [State.registerAccess])
      | write v =>
        by_cases hr : r = .command
        · subst hr
          exact .inl ⟨v, registerAt_eq_command hr', rfl, rfl⟩
        · exact .inr (s.writeRegister_sameWork a v hr)
    next => split <;> exact .inr (by constructor <;> simp)

/-- What a state that agrees on the work meets, and what a command just taken leads to, an access leads to. -/
theorem State.hostAccess_leads {Q : State → Prop} {s : State} (a : HostAddress) (x : Access)
    (hsame : ∀ u, SameWork s u → Q u)
    (hact : ∀ code, a = commandAddress → x = .write code → Ready s → Q ((taken s code).act code)) :
    Q (s.hostAccess a x) := by
  obtain ⟨code, ha, hx, e⟩ | h := s.hostAccess_cases a x
  · rw [e, State.writeCommand]
    obtain e | e | ⟨hr, hh, e⟩ := s.takeCommand_cases code (fun s => s.act code) <;> rw [e]
    · exact hsame s (by constructor <;> rfl)
    · exact hsame _ (by constructor <;> simp)
    · exact hact code ha hx ⟨hr, hh⟩
  · exact hsame _ h

/-- The same of the row that cancels a pending switch. -/
theorem State.takeCancel_leads {Q : State → Prop} {s : State} (hsame : ∀ u, SameWork s u → Q u)
    (hcancel : Ready s → Q (taken s 0x0010).cancelSwitch) : Q (s.takeCommand 0x0010 State.cancelSwitch) := by
  obtain e | e | ⟨hr, hh, e⟩ := s.takeCommand_cases 0x0010 State.cancelSwitch <;> rw [e]
  · exact hsame s (by constructor <;> rfl)
  · exact hsame _ (by constructor <;> simp)
  · exact hcancel ⟨hr, hh⟩

end Sys2Proof.Machine

namespace Sys2Proof.Safety

open Sys2Proof.Machine

/-! ## What only moves fields outside the trunks and the attempt -/

/-- What leaves both interfaces and the transfer record alone keeps the invariant of the attempt. -/
theorem AttemptInv.congr {s u : State} (h : AttemptInv s) (hx : u.xfer = s.xfer) (ha : u.trunkA = s.trunkA)
    (hb : u.trunkB = s.trunkB) : AttemptInv u where
  trunks := State.trunks_inv_congr h.trunks ha hb
  onReady := OnReady.congr_trunks h.onReady hx ha hb

/-- A trunk interface takes a value that meets its invariant, in the same state as before. -/
theorem AttemptInv.setTrunk {s : State} (h : AttemptInv s) (t : TrunkId) {x : Trunk} (hx : TrunkInv x)
    (hs : x.state = (s.trunk t).state) : AttemptInv (s.setTrunk t x) where
  trunks := State.setTrunk_inv h.trunks t hx
  onReady := OnReady.setTrunk_same h.onReady t hs

/-- The transfer record takes a value on the same trunk. -/
theorem AttemptInv.moves {s u : State} {x y : Transfer} (h : AttemptInv s) (hx : s.xfer = some x) (hu : u.xfer = some y)
    (ht : y.trunk = x.trunk) (ha : u.trunkA = s.trunkA) (hb : u.trunkB = s.trunkB) : OnReady u := by
  intro z hz
  obtain rfl : y = z := Option.some.inj (hu.symm.trans hz)
  have hr := h.onReady x hx
  rw [← ht] at hr
  cases hy : y.trunk <;> simpa [State.ready, State.trunk, hy, ha, hb] using hr

/-- A trunk in training carries no attempt, so whatever its training leads to leaves the attempt on its trunk. -/
theorem AttemptInv.train {s u : State} (h : AttemptInv s) {t : TrunkId} (ht : (s.trunk t).state = .training)
    {x : Trunk} (hu : TrunksInv u) (hx : u.xfer = s.xfer) (ha : u.trunkA = (s.setTrunk t x).trunkA)
    (hb : u.trunkB = (s.setTrunk t x).trunkB) : AttemptInv u where
  trunks := hu
  onReady := OnReady.congr_trunks (OnReady.setTrunk_other h.onReady x (OnReady.not_training h.onReady ht)) (by simpa using hx)
    ha hb

end Sys2Proof.Safety

namespace Sys2Proof.Machine

open Sys2Proof.Safety

/-- Time keeps the invariant of the attempt. -/
theorem State.elapse_attemptInv {s : State} (n : Nat) (h : AttemptInv s) : AttemptInv (s.elapse n) where
  trunks := State.elapse_trunks n h.trunks
  onReady := State.elapse_onReady n h.onReady

/-! ## Commands -/

/-- STATION DISABLE detaches the transfer in progress at most, which stays on its trunk (R84). -/
theorem State.detach_onReady {s : State} (n : Nat) (h : OnReady s) : OnReady (s.detach n) := by
  unfold State.detach
  split
  next x hx =>
    split
    · intro y hy
      obtain rfl := Option.some.inj hy
      exact h x hx
    · exact h
  next => exact h

/-- STATION DISABLE leaves the attempt on its trunk. -/
theorem State.stationDisable_onReady {s : State} (h : OnReady s) : OnReady s.stationDisable := by
  unfold State.stationDisable
  split
  · exact h
  next n _ =>
    dsimp only
    split
    · exact h
    · exact OnReady.congr_trunks (State.detach_onReady n (OnReady.congr_trunks h (by simp) (by simp) (by simp))) rfl rfl rfl

/-- ABORT leaves the attempt alone in IDLE and HALTED, and ends it in RUNNING and DRAINING. -/
theorem State.abort_onReady {s : State} (h : OnReady s) : OnReady s.abort := by
  unfold State.abort
  split
  · exact h
  · exact h
  all_goals
    dsimp only
    split
    next x hx => exact onReady_none (by simp [State.abortSlot, hx, State.transferReports])
    next hx => exact onReady_none (by simp [State.abortSlot, hx]; split <;> simp [hx])

/-- Every command leaves an attempt in flight on a READY trunk: of those that reach the attempt or a trunk, ABORT and
ENGINE RESET end it, and a trunk command is held for it. -/
theorem State.act_onReady {s : State} (c : Word) (h : OnReady s) : OnReady (s.act c) := by
  unfold State.act
  split
  case h_5 => exact State.abort_onReady h
  case h_7 =>
    unfold State.engineReset State.resetRunTime
    split <;> exact onReady_none rfl
  case h_11 => exact State.stationDisable_onReady h
  case h_17 => exact State.trunkCommand_onReady _ h
  case h_18 => exact State.trunkCommand_onReady _ h
  all_goals exact OnReady.congr_trunks h (by simp) (by simp) (by simp)

/-- A host access keeps the invariant of the attempt. -/
theorem State.hostAccess_attemptInv {s : State} (a : HostAddress) (x : Access) (h : AttemptInv s) :
    AttemptInv (s.hostAccess a x) where
  trunks := State.hostAccess_trunks a x h.trunks
  onReady := State.hostAccess_leads a x (fun _ e => OnReady.congr_trunks h.onReady e.xfer e.trunkA e.trunkB)
    (fun _ _ _ _ => State.act_onReady _ (OnReady.congr_trunks h.onReady rfl rfl rfl))

/-! ## The line -/

/-- The end of an echo keeps the invariant: the attempt ends, or goes over to its window on the same trunk. -/
theorem State.echoEnd_attemptInv {s : State} {x : Transfer} (h0 h1 : Word) (payload : List Word) (e : Echo)
    (h : AttemptInv s) (hx : s.xfer = some x) : AttemptInv (s.echoEnd x h0 h1 payload e) where
  trunks := State.echoEnd_trunks x h0 h1 payload e h.trunks
  onReady := by
    have hsent := AttemptInv.setTrunk h x.trunk
      (x := { s.trunk x.trunk with lastFrame := frameOnLine (frameWords h0 h1 payload) })
      (Trunk.inv_congr (State.trunk_inv h.trunks _) rfl rfl rfl (Decidable.or_iff_not_imp_left.mpr id) rfl) rfl
    unfold State.echoEnd
    dsimp only
    split
    · exact State.endAttempt_onReady _ _ _ _
    · split
      · exact State.endAttempt_onReady _ _ _ _
      · exact State.endAttempt_onReady _ _ _ _
      all_goals exact hsent.moves (x := x) hx rfl rfl rfl rfl

/-- A reception goes on with the attempt on its trunk. -/
theorem State.answerSync_attemptInv {s : State} {x : Transfer} (f : AnswerFrame) (h : AttemptInv s)
    (hx : s.xfer = some x) : AttemptInv (s.answerSync x f) where
  trunks := State.answerSync_trunks x f h.trunks
  onReady := by
    have hheard := AttemptInv.setTrunk h x.trunk (x := (s.trunk x.trunk).hearFrame (s.receptionTime f) (s.answerTime f))
      (Trunk.hearFrame_inv _ _ (State.trunk_inv h.trunks _)) rfl
    have hx' : (s.setTrunk x.trunk ((s.trunk x.trunk).hearFrame (s.receptionTime f) (s.answerTime f))).xfer = some x := by
      simpa using hx
    unfold State.answerSync
    dsimp only
    split
    · split <;> exact hheard.moves hx' rfl rfl rfl rfl
    · exact hheard.moves hx' rfl rfl rfl rfl

/-- The call goes out with the attempt on its trunk. -/
theorem State.sendCall_attemptInv {s : State} {x : Transfer} (h : AttemptInv s) (hx : s.xfer = some x) :
    AttemptInv (s.sendCall x) where
  trunks := State.sendCall_trunks x h.trunks
  onReady := (h.setTrunk x.trunk (Trunk.transmit_inv _ (State.trunk_inv h.trunks _)) rfl).moves (x := x) hx rfl rfl
    rfl rfl

/-- The end of a burst sets its own trunk only, which is in training. -/
theorem State.judgeBurst_attemptInv {s : State} {t : TrunkId} (e : Echo) (h : AttemptInv s)
    (hb : (s.trunk t).burst ≠ .none) : AttemptInv (s.judgeBurst t e) := by
  have ht := (State.trunk_inv h.trunks t).burstInTraining hb
  have hu := State.judgeBurst_trunks t e h.trunks hb
  have hx : (s.judgeBurst t e).xfer = s.xfer := by simp
  revert hu hx
  unfold State.judgeBurst
  dsimp only
  split
  · exact fun hu hx => h.train ht hu hx rfl rfl
  · split <;> exact fun hu hx => h.train ht hu hx rfl rfl

/-! ## The rows -/

/-- Every row keeps the invariant of the trunks and the attempt. -/
theorem rows_attemptInv : RowsLead AttemptInv AttemptInv where
  stays _ h := h
  served _ h := h.congr (by simp) (by simp) (by simp)
  access _ a x h := State.hostAccess_attemptInv a x h
  cancelSwitch _ h := h.congr (by simp) (by simp) (by simp)
  resetRelease _ h := h.congr (by simp) (by simp) (by simp)
  quietComes _ n h := (State.elapse_attemptInv n h).congr (by simp) (by simp) (by simp)
  validation s _ _ _ h := h.congr (by simp) (by simp) (by simp)
  pointRead _ _ _ h := h.congr (by simp) (by simp) (by simp)
  postCheck _ _ _ _ _ h := h.congr (by simp) (by simp) (by simp)
  roundTimer _ n h _ := (State.elapse_attemptInv n h).congr (by simp) (by simp) (by simp)
  slotRead _ n h _ := ⟨State.trunks_inv_congr h.trunks (by simp) (by simp), State.slotReadDone_onReady n h.onReady⟩
  demandRead _ n h _ := ⟨State.trunks_inv_congr h.trunks (by simp) (by simp), State.demandReadDone_onReady n h.onReady⟩
  pause _ n h _ := (State.elapse_attemptInv n h).congr (by simp) (by simp) (by simp)
  callStart _ _ n _ h _ hy := State.sendCall_attemptInv (State.elapse_attemptInv n h) hy
  attemptEnd _ _ n _ _ h _ _ :=
    ⟨State.endAttempt_trunks _ _ _ (State.elapse_trunks n h.trunks), State.endAttempt_onReady _ _ _ _⟩
  echo _ _ n _ h0 h1 payload judged h _ hy :=
    State.echoEnd_attemptInv h0 h1 payload judged (State.elapse_attemptInv n h) hy
  sync _ _ frame h hx := State.answerSync_attemptInv frame h hx
  lateAnswer _ x _ h _ := h.setTrunk x.trunk (Trunk.hearFrame_inv _ _ (State.trunk_inv h.trunks _)) rfl
  answer _ _ n _ _ h _ _ :=
    ⟨State.endAttempt_trunks _ _ _ (State.elapse_trunks n h.trunks), State.endAttempt_onReady _ _ _ _⟩
  burstDue s t n due h ht := by
    have ht' : ((s.elapse n).trunk t).state = .training := (State.elapse_trunk_state s n t).trans ht
    exact (State.elapse_attemptInv n h).setTrunk t
      (Trunk.burstFallsDue_inv due (State.trunk_inv (State.elapse_trunks n h.trunks) t) ht') rfl
  burstStart s t n h hb := by
    have hb' : ((s.elapse n).trunk t).burst ≠ .none := State.elapse_burst n t (by simp [hb])
    have he := State.elapse_attemptInv n h
    exact ⟨State.sendBurst_trunks t he.trunks hb', OnReady.setTrunk_same he.onReady t rfl⟩
  burstEnd s t n judged h hb :=
    State.judgeBurst_attemptInv judged (State.elapse_attemptInv n h) (State.elapse_burst n t (by simp [hb]))
  trainingTimer s t n h ht :=
    (State.elapse_attemptInv n h).train ((State.elapse_trunk_state s n t).trans ht)
      (State.failTraining_trunks t (State.elapse_trunks n h.trunks)) (by simp) rfl rfl
  published _ h := h.congr (by simp) (by simp) (by simp)
  activity s t a h :=
    ⟨State.lineActivity_trunks t a h.trunks, OnReady.setTrunk_same h.onReady t (by cases a <;> rfl)⟩

/-- Settles O59: the rows keep the invariant, time keeps it, and pin reset leaves no transfer in progress. -/
theorem everyStepKeepsTheAttemptOnAReadyTrunk : Obligations.EveryStepKeepsTheAttemptOnAReadyTrunk := fun _ _ =>
  rows_attemptInv.step (fun _ _ h => h.congr rfl rfl rfl) (fun _ n h => State.elapse_attemptInv n h)
    (fun s _ => ⟨State.pinReset_trunks s, onReady_none rfl⟩)

end Sys2Proof.Machine
end

section
/-! What every row does to the point runtime table: each entry takes at most one move, or ENGINE RESET and PIN_RESET set
the table back. The registers and the Command Unit go with it, for O60 states the three together. -/

namespace Sys2Proof.Machine

open Sys2Proof.Safety

/-! ## One move of an entry -/

/-- What one row may do to an entry (R101, R103): S and the update count move together and not under HOLD, T stays while
the point is IN FLIGHT, and PENDING is set under HOLD only. -/
structure EntryMoves (e f : PointEntry) : Prop where
  underHold : e.hold = true → f.hold = true → f.stable = e.stable ∧ f.updates = e.updates
  flipCounts : f.stable ≠ e.stable → f.updates = e.updates + 1
  elseKeeps : f.stable = e.stable → f.updates = e.updates
  inFlight : e.inFlight = true → f.transmit = e.transmit
  pendingHeld : (e.pending = true → e.hold = true) → f.pending = true → f.hold = true

/-- An entry that stays. -/
theorem EntryMoves.refl (e : PointEntry) : EntryMoves e e :=
  ⟨fun _ _ => ⟨rfl, rfl⟩, fun h => absurd rfl h, fun _ => rfl, fun _ => rfl, fun h => h⟩

/-- A move that leaves both indices and the count. -/
theorem EntryMoves.of_indices {e f : PointEntry} (hs : f.stable = e.stable) (hu : f.updates = e.updates)
    (ht : f.transmit = e.transmit) (hp : (e.pending = true → e.hold = true) → f.pending = true → f.hold = true) :
    EntryMoves e f :=
  ⟨fun _ _ => ⟨hs, hu⟩, fun h => absurd hs h, fun _ => hu, fun _ => ht, hp⟩

/-- A flip of S, counted, of an entry that is not held before and after. -/
theorem EntryMoves.of_flip {e f : PointEntry} (hs : f.stable = !e.stable) (hu : f.updates = e.updates + 1)
    (ht : f.transmit = e.transmit) (hh : ¬(e.hold = true ∧ f.hold = true))
    (hp : (e.pending = true → e.hold = true) → f.pending = true → f.hold = true) : EntryMoves e f :=
  ⟨fun he hf => absurd ⟨he, hf⟩ hh, fun _ => hu, fun h => by simp [hs] at h, fun _ => ht, hp⟩

/-- Every entry takes at most one move. -/
def PointsMove (s t : State) : Prop := ∀ p, EntryMoves (s.point p) (t.point p)

/-- A table that stays. -/
theorem PointsMove.of_same {s t : State} (h : t.points = s.points) : PointsMove s t := fun p => by
  rw [State.point_congr h]
  exact .refl _

/-- What the states do beside their tables does not matter. -/
theorem PointsMove.congr {s t u v : State} (h : PointsMove s t) (hs : u.points = s.points) (ht : v.points = t.points) :
    PointsMove u v := fun p => by
  rw [State.point_congr hs, State.point_congr ht]
  exact h p

/-- One entry takes a move. -/
theorem PointsMove.set {s u : State} (p : BitVec 8) (e : PointEntry) (hu : u.points = (s.setPoint p e).points)
    (h : EntryMoves (s.point p) e) : PointsMove s u := fun q => by
  rw [State.point_congr hu, State.point_setPoint_any]
  split
  next hq => subst hq; exact h
  next => exact .refl _

/-- Moves keep PENDING under HOLD. -/
theorem PointsMove.pointsInv {s t : State} (h : PointsMove s t) (hs : PointsInv s) : PointsInv t :=
  fun p => (h p).pendingHeld (hs p)

/-! ## The operations on an entry -/

/-- The end report leaves indices, count, HOLD and PENDING (R72, R107). -/
@[simp] theorem PointEntry.ended_frame (e : PointEntry) (k : TransferKind) (o : OutcomeCode) (w : Word) (n : Nat) :
    (e.ended k o w n).stable = e.stable ∧ (e.ended k o w n).transmit = e.transmit ∧ (e.ended k o w n).hold = e.hold ∧
      (e.ended k o w n).pending = e.pending ∧ (e.ended k o w n).updates = e.updates := by
  unfold PointEntry.ended
  dsimp only
  split <;> exact ⟨rfl, rfl, rfl, rfl, rfl⟩

/-- A reception's start clears PENDING at most (R104). -/
theorem State.receptionStart_moves (s : State) (p : BitVec 8) : PointsMove s (s.receptionStart p) :=
  .set p _ rfl (.of_indices rfl rfl rfl (fun _ h => nomatch h))

/-- A hand-over marks the entry IN FLIGHT (R103). -/
theorem State.markInFlight_moves (s : State) (p : BitVec 8) : PointsMove s (s.markInFlight p) :=
  .set p _ rfl (.of_indices rfl rfl rfl (fun h => h))

/-- A transfer's end report flips S of an entry that is not held at most (R72, R105, R106). -/
theorem State.pointReport_moves (s : State) (x : Transfer) (o : OutcomeCode) : PointsMove s (s.pointReport x o) := by
  unfold State.pointReport
  split
  next r _ _ =>
    dsimp only
    split
    · split
      next hh => exact .set _ _ rfl (.of_indices (by simp) (by simp) (by simp) (fun _ _ => hh))
      next hh =>
        refine .set x.point _ (State.reportUpdate_frame _ _ _ _ _ _).2.2.2.2.2.2.2.1 (.of_flip ?_ ?_ ?_ ?_ ?_)
        all_goals simp_all [PointEntry.flip]
    · exact .set _ _ rfl (.of_indices (by simp) (by simp) (by simp) (by simp))
  next => exact .set _ _ rfl (.of_indices (by simp) (by simp) (by simp) (by simp))
  next => exact .of_same rfl

/-- POINT HOLD sets HOLD (R111). -/
theorem State.hold_moves (s : State) (p : BitVec 8) : PointsMove s (s.hold p) :=
  .set p _ rfl (.of_indices rfl rfl rfl (fun _ _ => rfl))

/-- POINT RELEASE clears HOLD, and flips S where an answer waits (R112). -/
theorem State.release_moves (s : State) (p : BitVec 8) (n : Nat) (b : Bool) : PointsMove s (s.release p n b) := by
  unfold State.release
  dsimp only
  split
  · refine .set p _ (State.reportUpdate_frame _ _ _ _ _ _).2.2.2.2.2.2.2.1 (.of_flip rfl rfl rfl ?_ ?_)
    · exact fun h => nomatch h.2
    · exact fun _ h => nomatch h
  next hp =>
    exact .set p _ rfl (.of_indices rfl rfl rfl (fun _ h => absurd h hp))

/-- POINT COMMIT flips T of a point that is not IN FLIGHT (R113). -/
theorem State.commit_moves (s : State) (p : BitVec 8) : PointsMove s (s.commit p) := by
  unfold State.commit
  dsimp only
  split
  · exact .of_same (by simp)
  next hf =>
    exact .set p _ rfl ⟨fun _ _ => ⟨rfl, rfl⟩, fun h => absurd rfl h, fun _ => rfl, fun h => absurd h hf, fun h => h⟩

/-! ## The rows -/

/-- The end of a point command's read acts on its entry (R110). -/
theorem State.pointReadDone_moves (s : State) (c : PointCommand) (p : BitVec 8) : PointsMove s (s.pointReadDone c p) := by
  unfold State.pointReadDone State.pointChecked
  dsimp only
  split
  · exact .of_same (by simp)
  · split
    · exact .of_same (by simp)
    · split
      · exact (State.hold_moves _ p).congr (by simp) rfl
      · exact (State.release_moves _ p _ _).congr (by simp) rfl
      · exact (State.commit_moves _ p).congr (by simp) rfl

/-- The reports at a transfer's end move the entry of its point only (R71). -/
theorem State.transferReports_moves (s : State) (x : Transfer) (o : OutcomeCode) :
    PointsMove s (s.transferReports x o) :=
  (s.pointReport_moves x o).congr rfl (by simp [State.transferReports])

/-- The end of a transfer. -/
theorem State.endTransfer_moves (s : State) (x : Transfer) (o : OutcomeCode) : PointsMove s (s.endTransfer x o) := by
  refine (s.transferReports_moves x o).congr rfl ?_
  unfold State.endTransfer
  dsimp only
  split <;> simp

/-- What follows an attempt is a further attempt, or the end of the transfer. -/
theorem State.afterAttempt_moves (s : State) (x : Transfer) (o : OutcomeCode) : PointsMove s (s.afterAttempt x o) := by
  unfold State.afterAttempt State.retryOrEnd State.turnOrEnd
  repeat' split
  all_goals first
    | exact s.endTransfer_moves x _
    | exact .of_same (by simp)

/-- The end of an attempt. -/
theorem State.endAttempt_moves (s : State) (x : Transfer) (o : OutcomeCode) (c : Option (BitVec 8)) :
    PointsMove s (s.endAttempt x o c) :=
  (State.afterAttempt_moves _ _ o).congr (by simp) rfl

/-- The end of an echo ends the attempt, or opens its window. -/
theorem State.echoEnd_moves (s : State) (x : Transfer) (h0 h1 : Word) (l : List Word) (e : Echo) :
    PointsMove s (s.echoEnd x h0 h1 l e) := by
  unfold State.echoEnd
  dsimp only
  repeat' split
  all_goals first
    | exact (State.endAttempt_moves _ x _ _).congr (by simp) rfl
    | exact .of_same (by simp)

/-- A reception's start clears PENDING of a READ or EXCHANGE point. -/
theorem State.answerSync_moves (s : State) (x : Transfer) (f : AnswerFrame) : PointsMove s (s.answerSync x f) := by
  unfold State.answerSync
  dsimp only
  repeat' split
  all_goals first
    | exact (State.receptionStart_moves (s.setTrunk x.trunk _) x.point).congr (by simp) rfl
    | exact .of_same (by simp)

/-- A slot that needs a trunk goes on with its work, or leaves the table alone. -/
theorem State.needTrunk_moves (s : State) {work : State → State} (h : PointsMove s (work s)) :
    PointsMove s (s.needTrunk work) := by
  unfold State.needTrunk
  repeat' split
  · exact h
  · exact .of_same (by simp)
  · exact .of_same (by simp)

/-- The hand-over of a POINT or BROADCAST transfer marks its entry. -/
theorem State.handOverPoint_moves (s : State) (d : Option (BitVec 8)) (p : BitVec 8) (r : PointRecord) (n : Nat)
    (q : RetryPolicy) : PointsMove s (s.handOverPoint d p r n q) :=
  (State.markInFlight_moves s.enterTransfer p).congr rfl rfl

/-- The hand-over of a BROADCAST transfer. -/
theorem State.handOverBroadcast_moves (s : State) (d : Option (BitVec 8)) (p : BitVec 8) (r : PointRecord) :
    PointsMove s (s.handOverBroadcast d p r) :=
  (State.markInFlight_moves s.enterTransfer p).congr rfl rfl

/-- The end of a slot's reads hands a transfer over, or leaves the table alone. -/
theorem State.slotReadDone_moves (s : State) (n : Nat) : PointsMove s (s.slotReadDone n) := by
  unfold State.slotReadDone State.slotChecked
  repeat' split
  · exact .of_same (by simp)
  next start _ _ =>
    unfold State.slotWork
    split
    · unfold State.transferSlot
      repeat' split
      all_goals first
        | exact .of_same (by simp)
        | exact (State.needTrunk_moves _ (State.handOverBroadcast_moves _ _ _ _)).congr (by simp) rfl
        | exact (State.needTrunk_moves _ (State.handOverPoint_moves _ _ _ _ _ _)).congr (by simp) rfl
        | exact (State.needTrunk_moves _ (.of_same (by simp))).congr (by simp) rfl
    · exact .of_same (by simp)
    · exact .of_same (by simp)
    · exact (State.needTrunk_moves _ (.of_same (by simp))).congr (by simp) rfl
    · exact .of_same (by simp)
  · exact .of_same (by simp)

/-- The end of a demand's read. -/
theorem State.demandReadDone_moves (s : State) (n : Nat) : PointsMove s (s.demandReadDone n) := by
  unfold State.demandReadDone State.demandChecked State.needTrunkForDemand State.handOverDemand
  repeat' split
  all_goals first
    | exact .of_same (by simp)
    | exact (State.handOverBroadcast_moves _ _ _ _).congr (by simp) rfl
    | exact (State.handOverPoint_moves _ _ _ _ _ _).congr (by simp) rfl
    | exact (State.needTrunk_moves _ (.of_same rfl)).congr (by simp) rfl

/-- The part's events, from a table to one that is a move away. -/
theorem events_move (s₀ : State) : EventsLead (fun s => s.points = s₀.points) (PointsMove s₀) where
  stays _ h := .of_same h
  resetRelease _ h := .of_same h
  quietComes _ _ h := .of_same (by simpa using h)
  validation _ _ _ _ h := .of_same (by simpa using h)
  pointRead s c p h := (s.pointReadDone_moves c p).congr h.symm rfl
  postCheck _ _ _ _ _ h := .of_same (by simpa using h)
  roundTimer _ _ h _ := .of_same (by simpa using h)
  slotRead s n h _ := (s.slotReadDone_moves n).congr h.symm rfl
  demandRead s n h _ := (s.demandReadDone_moves n).congr h.symm rfl
  pause _ _ h _ := .of_same (by simpa using h)
  callStart _ _ _ _ h _ _ := .of_same (by simpa using h)
  attemptEnd _ _ _ y o h _ _ := (State.endAttempt_moves _ y o none).congr (by simpa using h.symm) rfl
  echo _ _ _ y h0 h1 l e h _ _ := (State.echoEnd_moves _ y h0 h1 l e).congr (by simpa using h.symm) rfl
  sync s x f h _ := (s.answerSync_moves x f).congr h.symm rfl
  lateAnswer _ _ _ h _ := .of_same (by simpa using h)
  answer _ _ _ _ _ h _ _ := (State.endAttempt_moves _ _ _ _).congr (by simpa using h.symm) rfl
  burstDue _ _ _ _ h _ := .of_same (by simpa using h)
  burstStart _ _ _ h _ := .of_same (by simpa using h)
  burstEnd _ _ _ _ h _ := .of_same (by simpa using h)
  trainingTimer _ _ _ h _ := .of_same (by simpa using h)
  published _ h := .of_same (by simpa using h)
  activity _ _ _ h := .of_same (by simpa using h)

/-! ## Commands -/

/-- ABORT ends the transfer in progress with its reports (R29). -/
theorem State.abort_moves (s : State) : PointsMove s s.abort := by
  have hslot : PointsMove s s.abortSlot := by
    unfold State.abortSlot
    split
    · exact (State.transferReports_moves _ _ _).congr (by simp) rfl
    · split <;> exact .of_same (by simp)
  unfold State.abort
  split
  · exact .of_same (by simp)
  · exact .of_same (by simp)
  all_goals
    dsimp only
    split <;> exact hslot.congr rfl (by simp)

/-- Of the commands as they are taken only ENGINE RESET sets the table back. -/
theorem State.act_moves (s : State) {code : Word} (h : code ≠ 0x0007) : PointsMove s (s.act code) := by
  unfold State.act
  split
  case h_5 => exact s.abort_moves
  case h_7 hc => exact absurd (BitVec.eq_of_toNat_eq hc) h
  all_goals exact .of_same (by simp)

/-- ENGINE RESET sets every entry back to Table 5-2 (R116). -/
theorem State.engineReset_point (s : State) (p : BitVec 8) : s.engineReset.point p = .reset := by
  have hpoints : s.engineReset.points = Vector.replicate 256 .reset := by
    unfold State.engineReset
    split <;> rfl
  simp [State.point, hpoints]

/-- PIN_RESET sets every entry back to Table 5-2 (R116, R176). -/
theorem State.pinReset_point (s : State) (p : BitVec 8) : s.pinReset.point p = .reset := by
  simp [State.point, State.pinReset, State.reset]

/-- A write of ENGINE RESET that is taken sets every entry back, under whatever row it is listed. -/
theorem exec_point_of_engineReset {c : Instr} {s t : State} (hc : writesEngineReset c) (hs : Ready s)
    (e : exec c s = .next t) (p : BitVec 8) : t.point p = .reset := by
  have hw : exec c s = .next (s.served.writeCommand 0x0007) := by
    simp only [writesEngineReset, List.mem_cons, List.not_mem_nil, or_false] at hc
    rcases hc with rfl | rfl | rfl | rfl | rfl | rfl | rfl
    · rfl
    all_goals exact (exec_of_busCycle rfl s).trans (congrArg Host.Outcome.next (State.writeCommand_eq_hostAccess _ _).symm)
  obtain rfl := Host.Outcome.next.inj (hw.symm.trans e)
  rw [State.writeCommand, State.takeCommand_ready _ _ (by simpa using hs.1) (by simpa using hs.2)]
  exact State.engineReset_point _ p

/-- Every other row moves each entry once at most. -/
theorem exec_moves {c : Instr} {s t : State} (hp : c ≠ .pinReset) (hr : ¬(writesEngineReset c ∧ Ready s))
    (e : exec c s = .next t) : PointsMove s t := by
  cases hh : isHostAccess c with
  | false => exact (events_move s).exec (fun _ h => by simpa using h) hh hp rfl e
  | true =>
    obtain ⟨a, x, hw, he⟩ | he := exec_of_isHostAccess hh s
    · obtain rfl := Host.Outcome.next.inj (he.symm.trans e)
      refine State.hostAccess_leads a x (fun u hu => .of_same (by simpa using hu.points)) (fun code ha hx hs => ?_)
      refine (State.act_moves _ fun hcode => hr ⟨hw ha (hcode ▸ hx), ?_⟩).congr (by simp [taken]) rfl
      simpa [Ready] using hs
    · obtain rfl := Host.Outcome.next.inj (he.symm.trans e)
      refine State.takeCancel_leads (fun u hu => .of_same (by simpa using hu.points)) (fun _ => .of_same ?_)
      simp [taken]

/-- Settles O41: a row that sets the table back leaves nothing under HOLD, and any other moves the entry once at most. -/
theorem stablePageMovesOnlyWithItsCount : Obligations.StablePageMovesOnlyWithItsCount := by
  intro c s t p e
  have hreset : c = .pinReset ∨ (writesEngineReset c ∧ Ready s) → t.point p = .reset := by
    rintro (rfl | ⟨hc, hs⟩)
    · obtain rfl := Host.Outcome.next.inj e
      exact State.pinReset_point _ p
    · exact exec_point_of_engineReset hc hs e p
  refine ⟨fun hs ht => ?_, hreset, fun hp hr => ?_⟩
  · by_cases h : c = .pinReset ∨ (writesEngineReset c ∧ Ready s)
    · rw [hreset h] at ht
      exact nomatch ht
    · obtain ⟨hp, hr⟩ := not_or.mp h
      exact (exec_moves hp hr e p).underHold hs ht
  · have hm := exec_moves hp hr e p
    exact ⟨hm.flipCounts, hm.elseKeeps, hm.inFlight⟩

/-! ## The Command Unit -/

/-- A unit that is READY meets its invariant. -/
theorem commandInv_complete (s : State) (r : ResultCode) (d : Word) : CommandInv (s.complete r d) := fun h => nomatch h

/-- What leaves the unit's state, result and detail alone keeps the invariant. -/
theorem commandInv_congr {s u : State} (h : CommandInv s) (hh : u.cmd.held.isSome = s.cmd.held.isSome)
    (hr : u.cmd.result = s.cmd.result) (hd : u.cmd.detail = s.cmd.detail) : CommandInv u := fun hu => by
  rw [hr, hd]
  exact h (hh ▸ hu)

/-- What leaves the whole unit alone keeps the invariant. -/
theorem commandInv_of_cmd {s u : State} (h : CommandInv s) (e : u.cmd = s.cmd) : CommandInv u :=
  commandInv_congr h (by rw [e]) (by rw [e]) (by rw [e])

/-- A command without a result that its owner goes on with. -/
theorem commandInv_hold {s : State} (w : CommandWork) (h : s.cmd.result = .none ∧ s.cmd.detail = 0) :
    CommandInv (s.holdCommand w) := fun _ => h

/-- Time leaves result and detail alone, and a held command held. -/
theorem State.elapse_commandInv {s : State} (n : Nat) (h : CommandInv s) : CommandInv (s.elapse n) :=
  commandInv_congr h (by simp [State.elapse, CommandUnit.elapse]) (by simp [State.elapse, CommandUnit.elapse])
    (by simp [State.elapse, CommandUnit.elapse])

/-- A trunk command that takes effect completes (R133, R134). -/
theorem State.trunkEffect_commandInv (s : State) (c : TrunkCommand) (t : TrunkId) : CommandInv (s.trunkEffect c t) := by
  unfold State.trunkEffect State.trainEffect State.offEffect
  dsimp only
  repeat' split
  all_goals exact commandInv_complete _ _ _

/-- The station commands complete at once (R82, R83). -/
theorem State.stationCommands_commandInv (s : State) : CommandInv s.stationEnable ∧ CommandInv s.stationDisable := by
  unfold State.stationEnable State.stationDisable
  dsimp only
  constructor <;> repeat' split
  all_goals exact commandInv_complete _ _ _

/-- A post completes, or is held for its check (R119). -/
theorem State.demandPost_commandInv {s : State} (h : s.cmd.result = .none ∧ s.cmd.detail = 0) :
    CommandInv s.demandPost := by
  unfold State.demandPost
  dsimp only
  repeat' split
  all_goals first
    | exact commandInv_complete _ _ _
    | exact commandInv_of_cmd (commandInv_hold _ h) rfl

/-- A command just taken completes, or is held without a result (R173, R174). -/
theorem State.act_commandInv {s : State} (code : Word) (h : s.cmd.result = .none ∧ s.cmd.detail = 0) :
    CommandInv (s.act code) := by
  unfold State.act State.start State.stepRound State.stopRound State.stopSweep State.abort State.clearHalt
    State.engineReset State.switchPlan State.validatePlan State.pointCommand State.demandCancel State.trunkCommand
    State.cancelSwitch
  repeat' split
  all_goals first
    | exact commandInv_complete _ _ _
    | exact s.trunkEffect_commandInv _ _
    | exact s.stationCommands_commandInv.1
    | exact s.stationCommands_commandInv.2
    | exact State.demandPost_commandInv h
    | exact commandInv_hold _ (by simpa using h)

/-- A trunk command held for an attempt that ends completes. -/
theorem State.releaseHeldTrunk_commandInv {s : State} (t : TrunkId) (h : CommandInv s) :
    CommandInv (s.releaseHeldTrunk t) := by
  unfold State.releaseHeldTrunk
  repeat' split
  all_goals first
    | exact h
    | exact s.trunkEffect_commandInv _ _

/-- The end of an attempt reaches the unit by a held trunk command only (R135). -/
theorem State.endAttempt_commandInv {s : State} (x : Transfer) (o : OutcomeCode) (c : Option (BitVec 8))
    (h : CommandInv s) : CommandInv (s.endAttempt x o c) :=
  commandInv_of_cmd (State.releaseHeldTrunk_commandInv x.trunk
    (commandInv_of_cmd (u := s.attemptReports (x.withOutcome o) o c) h (by simp))) (by simp [State.endAttempt])

/-- The end of an echo. -/
theorem State.echoEnd_commandInv {s : State} (x : Transfer) (h0 h1 : Word) (l : List Word) (e : Echo)
    (h : CommandInv s) : CommandInv (s.echoEnd x h0 h1 l e) := by
  unfold State.echoEnd
  dsimp only
  repeat' split
  all_goals first
    | exact State.endAttempt_commandInv _ _ _ (commandInv_of_cmd h (by simp))
    | exact commandInv_of_cmd h (by simp)

/-- The end of a held command's read completes it. -/
theorem State.validationDone_commandInv (s : State) (forSwitch : Bool) (bank : Bank) (base : Nat) :
    CommandInv (s.validationDone forSwitch bank base) := by
  unfold State.validationDone State.validated State.switchTo
  repeat' split
  all_goals exact commandInv_complete _ _ _

/-- The end of a point command's read completes it. -/
theorem State.pointReadDone_commandInv (s : State) (c : PointCommand) (p : BitVec 8) :
    CommandInv (s.pointReadDone c p) := by
  unfold State.pointReadDone State.pointChecked State.hold State.release State.commit
  dsimp only
  repeat' split
  all_goals exact commandInv_complete _ _ _

/-- The end of a post's check completes it. -/
theorem State.postCheckDone_commandInv (s : State) (p tag : BitVec 8) (high : Bool) (n : Nat) :
    CommandInv (s.postCheckDone p high n tag) := by
  unfold State.postCheckDone State.postChecked State.judgePost
  dsimp only
  repeat' split
  all_goals exact commandInv_complete _ _ _

/-- Every row keeps a held command without a result. -/
theorem rows_commandInv : RowsLead CommandInv CommandInv where
  stays _ h := h
  served _ h := commandInv_of_cmd h (by simp)
  access s a x h := State.hostAccess_leads a x
    (fun _ e => commandInv_congr h (by rw [e.held]) e.result e.detail)
    (fun _ _ _ _ => State.act_commandInv _ ⟨rfl, rfl⟩)
  cancelSwitch s h := State.takeCancel_leads (fun _ e => commandInv_congr h (by rw [e.held]) e.result e.detail)
    (fun _ => by unfold State.cancelSwitch; split <;> exact commandInv_complete _ _ _)
  resetRelease _ h := h
  quietComes _ _ _ := commandInv_complete _ _ _
  validation s forSwitch bank base _ := s.validationDone_commandInv forSwitch bank base
  pointRead s c p _ := s.pointReadDone_commandInv c p
  postCheck s p high n tag _ := s.postCheckDone_commandInv p tag high n
  roundTimer _ n h _ := commandInv_of_cmd (State.elapse_commandInv n h) (by simp)
  slotRead _ _ h _ := commandInv_of_cmd h (by simp)
  demandRead _ _ h _ := commandInv_of_cmd h (by simp)
  pause _ n h _ := commandInv_of_cmd (State.elapse_commandInv n h) (by simp)
  callStart _ _ n _ h _ _ := commandInv_of_cmd (State.elapse_commandInv n h) (by simp)
  attemptEnd _ _ n _ _ h _ _ := State.endAttempt_commandInv _ _ _ (State.elapse_commandInv n h)
  echo _ _ n _ _ _ _ _ h _ _ := State.echoEnd_commandInv _ _ _ _ _ (State.elapse_commandInv n h)
  sync _ _ _ h _ := commandInv_of_cmd h (by simp)
  lateAnswer _ _ _ h _ := commandInv_of_cmd h (by simp)
  answer _ _ n _ _ h _ _ := State.endAttempt_commandInv _ _ _ (State.elapse_commandInv n h)
  burstDue _ _ n _ h _ := commandInv_of_cmd (State.elapse_commandInv n h) (by simp)
  burstStart _ _ n h _ := commandInv_of_cmd (State.elapse_commandInv n h) (by simp)
  burstEnd _ _ n _ h _ := commandInv_of_cmd (State.elapse_commandInv n h) (by simp)
  trainingTimer _ _ n h _ := commandInv_of_cmd (State.elapse_commandInv n h) (by simp)
  published _ h := commandInv_of_cmd h (by simp)
  activity _ _ _ h := commandInv_of_cmd h (by simp)

/-! ## The registers and the entries -/

/-- The settings are in their ranges. -/
def SettingsKept (s : State) : Prop := SettingsInv s.set

/-- Every row keeps the settings in their ranges: accesses judge them, and nothing else writes them. -/
theorem rows_settingsInv : RowsLead SettingsKept SettingsKept where
  stays _ h := h
  served _ h := by simpa [SettingsKept] using h
  access _ a x h := State.hostAccess_settings a x h
  cancelSwitch _ h := by simpa [SettingsKept] using h
  resetRelease _ h := h
  quietComes _ _ h := by simpa [SettingsKept] using h
  validation _ _ _ _ h := by simpa [SettingsKept] using h
  pointRead _ _ _ h := by simpa [SettingsKept] using h
  postCheck _ _ _ _ _ h := by simpa [SettingsKept] using h
  roundTimer _ _ h _ := by simpa [SettingsKept] using h
  slotRead _ _ h _ := by simpa [SettingsKept] using h
  demandRead _ _ h _ := by simpa [SettingsKept] using h
  pause _ _ h _ := by simpa [SettingsKept] using h
  callStart _ _ _ _ h _ _ := by simpa [SettingsKept] using h
  attemptEnd _ _ _ _ _ h _ _ := by simpa [SettingsKept] using h
  echo _ _ _ _ _ _ _ _ h _ _ := by simpa [SettingsKept] using h
  sync _ _ _ h _ := by simpa [SettingsKept] using h
  lateAnswer _ _ _ h _ := by simpa [SettingsKept] using h
  answer _ _ _ _ _ h _ _ := by simpa [SettingsKept] using h
  burstDue _ _ _ _ h _ := by simpa [SettingsKept] using h
  burstStart _ _ _ h _ := by simpa [SettingsKept] using h
  burstEnd _ _ _ _ h _ := by simpa [SettingsKept] using h
  trainingTimer _ _ _ h _ := by simpa [SettingsKept] using h
  published _ h := by simpa [SettingsKept] using h
  activity _ _ _ h := by simpa [SettingsKept] using h

/-- The settings after pin reset are in their ranges (Table 11-1). -/
theorem Settings.reset_inv : SettingsInv .reset := by
  constructor <;> decide

/-- Every row keeps PENDING under HOLD: an entry moves, or the table is set back. -/
theorem exec_pointsInv {c : Instr} {s t : State} (h : PointsInv s) (e : exec c s = .next t) : PointsInv t := by
  by_cases hc : c = .pinReset ∨ (writesEngineReset c ∧ Ready s)
  · intro p hp
    rw [(stablePageMovesOnlyWithItsCount c s t p e).2.1 hc] at hp
    exact nomatch hp
  · obtain ⟨hp, hr⟩ := not_or.mp hc
    exact (exec_moves hp hr e).pointsInv h

/-- Settles O60: each of the three is kept by every row, by time, and by pin reset. -/
theorem everyStepKeepsRegistersAndEntries : Obligations.EveryStepKeepsRegistersAndEntries := by
  rintro s t ⟨hset, hpoints, hcmd⟩ e
  have hset' : SettingsKept t := rows_settingsInv.step (P := SettingsKept) (fun _ _ h => h)
    (fun _ _ h => by simpa [SettingsKept] using h) (fun _ _ => Settings.reset_inv) hset e
  have hpoints' : PointsInv t := step_keeps (P := PointsInv) (fun _ _ h => h)
    (fun _ h => (PointsMove.of_same (by simp)).pointsInv h) (fun _ _ h => (PointsMove.of_same (by simp)).pointsInv h)
    (fun _ _ _ => exec_pointsInv) hpoints e
  have hcmd' : CommandInv t := rows_commandInv.step (P := CommandInv) (fun _ _ h => h)
    (fun _ n h => State.elapse_commandInv n h) (fun _ _ h => nomatch h) hcmd e
  exact ⟨hset', hpoints', hcmd'⟩

end Sys2Proof.Machine
end

section
/-! What every row keeps of the engine and the demand queue. The laws of the engine settle its own relations; here the
queue is added: outside a demand's service every demand waits, and whatever ends a service leaves the queue waiting. -/

namespace Sys2Proof.Machine

open Sys2Proof.Safety

/-! ## A queue that waits -/

/-- A demand queue in which no demand is IN FLIGHT. -/
structure QueueWaits (l : List Demand) : Prop where
  list : DemandListInv l
  waiting : ∀ d ∈ l, d.inFlight = false

/-- No demand is IN FLIGHT. -/
theorem State.demandInFlight_none {s : State} : s.demandInFlight = none ↔ ∀ d ∈ s.demands, d.inFlight = false := by
  simp [State.demandInFlight, List.find?_eq_none]

/-- The demands that are left of a waiting queue wait. -/
theorem QueueWaits.sublist {l m : List Demand} (h : QueueWaits l) (hs : m.Sublist l) : QueueWaits m :=
  ⟨DemandListInv_sublist h.list hs, fun d hd => h.waiting d (hs.subset hd)⟩

/-- The round-start notice ages a waiting queue (R126). -/
theorem QueueWaits.aged {l : List Demand} (h : QueueWaits l) : QueueWaits (l.map Demand.aged) := by
  have hfields : ∀ d : Demand, d.aged.point = d.point ∧ d.aged.tag = d.tag ∧ d.aged.high = d.high ∧
      d.aged.inFlight = d.inFlight := fun d => by
    unfold Demand.aged
    split <;> exact ⟨rfl, rfl, rfl, rfl⟩
  have hw : ∀ d ∈ l.map Demand.aged, d.inFlight = false := fun d hd => by
    obtain ⟨e, he, rfl⟩ := List.mem_map.mp hd
    exact (hfields e).2.2.2.trans (h.waiting e he)
  refine ⟨DemandListInv_map h.list (fun d => (hfields d).1) (fun d => (hfields d).2.1) (fun d => (hfields d).2.2.1) ?_, hw⟩
  rw [List.filter_eq_nil_iff.mpr (fun d hd => by simp [hw d hd])]
  exact Nat.zero_le 1

/-- What a round start leaves of the queue: demands whose deadline runs out leave, the others age (R126). -/
theorem State.ageDemands_demands (s : State) :
    s.ageDemands.demands = (s.demands.filter (fun d : Demand => !d.expires)).map Demand.aged := by
  simp [State.ageDemands]

/-- The IN FLIGHT demand returns to WAITING (R124). -/
theorem State.returnDemand_waits {s : State} (h : DemandListInv s.demands) : QueueWaits s.returnDemand.demands :=
  ⟨State.returnDemand_list h, State.demandInFlight_none.mp s.returnDemand_none⟩

/-- The IN FLIGHT demand leaves (R125). -/
theorem State.dropInFlight_waits {s : State} (h : DemandListInv s.demands) : QueueWaits s.dropInFlight.demands :=
  ⟨State.dropInFlight_list h, State.demandInFlight_none.mp s.dropInFlight_none⟩

/-- A demand of a waiting queue becomes IN FLIGHT (R123). -/
theorem takeFirst_inv {test : Demand → Bool} {l m : List Demand} {d : Demand} (h : QueueWaits l)
    (e : takeFirst test l = some (d, m)) : DemandListInv m := by
  obtain ⟨before, after, rfl, rfl, -, -⟩ := takeFirst_some e
  have hw := h.waiting
  simp only [List.mem_append, List.mem_cons] at hw
  have hb : before.filter (·.inFlight) = [] := List.filter_eq_nil_iff.mpr fun b hb => by simp [hw b (.inl hb)]
  have ha : after.filter (·.inFlight) = [] := List.filter_eq_nil_iff.mpr fun b hb => by simp [hw b (.inr (.inr hb))]
  refine ⟨?_, ?_, ?_, ?_, ?_⟩
  · simpa using h.list.atMostEight
  · simpa using h.list.pointsDiffer
  · simpa using h.list.tagsDiffer
  · simpa [List.pairwise_append] using h.list.highFirst
  · simp [hb, ha]

/-! ## The engine's operations on a waiting queue -/

/-- A round begins on a waiting queue. -/
theorem State.beginRound_waits {s : State} (r : Nat) (h : QueueWaits s.demands) : QueueWaits (s.beginRound r).demands := by
  unfold State.beginRound
  dsimp only
  split <;> simpa [State.ageDemands_demands] using (h.sublist List.filter_sublist).aged

/-- The end of a round on a waiting queue. -/
theorem State.endRound_waits {s : State} (h : QueueWaits s.demands) : QueueWaits s.endRound.demands := by
  unfold State.endRound State.sweepBoundary
  dsimp only
  repeat' split
  · simpa using h
  · exact State.beginRound_waits 0 (by simpa using h)
  · simpa using h
  · exact State.beginRound_waits _ h

/-- The end of a slot on a waiting queue. -/
theorem State.endSlot_waits {s : State} (h : QueueWaits s.demands) : QueueWaits s.endSlot.demands := by
  unfold State.endSlot State.afterSlot
  repeat' split
  · simpa using h
  · exact State.endRound_waits h
  · simpa using h
  · exact State.endRound_waits h
  · exact h

/-- The need of a trunk on a waiting queue. -/
theorem State.needTrunk_waits {s : State} {work : State → State} (h : QueueWaits s.demands)
    (hwork : QueueWaits (work s).demands) : QueueWaits (s.needTrunk work).demands := by
  unfold State.needTrunk
  repeat' split
  · exact hwork
  · exact State.endSlot_waits (by simpa using h)
  · simpa using h

/-! ## Service -/

/-- A queue that waits needs no service. -/
theorem demandInv_of_waits {s : State} (he : EngineInv s) (h : QueueWaits s.demands) : DemandInv s :=
  ⟨he, h.list, fun hi => by simp [State.demandInFlight_none.mpr h.waiting] at hi⟩

/-- Outside a demand's service the queue waits. -/
theorem queueWaits_of_not_serving {s : State} (h : DemandInv s) (hs : ¬serving s) : QueueWaits s.demands :=
  ⟨h.list, State.demandInFlight_none.mp (by simpa using fun hi => hs (h.inFlightIsServed hi))⟩

/-- A slot that reads no demand's record and has handed nothing over serves no demand. -/
theorem not_serving {s : State} (hp : ∀ n, s.eng.phase ≠ .demandReading n) (hx : s.xfer = none) : ¬serving s := by
  rintro (⟨n, hn⟩ | ⟨x, h, -⟩)
  · exact hp n hn
  · simp [hx] at h

/-- An engine in a phase of its own reads no demand's record and has no transfer. -/
theorem queueWaits_of_phase {s : State} (h : DemandInv s) (hp : ∀ n, s.eng.phase ≠ .demandReading n)
    (ht : s.eng.phase ≠ .transferring) : QueueWaits s.demands :=
  queueWaits_of_not_serving h (not_serving hp (EngineInv_noTransfer h.engine ht))

/-- A transfer in progress that is no demand's serves none. -/
theorem queueWaits_of_transfer {s : State} {x : Transfer} (h : DemandInv s) (hx : s.xfer = some x)
    (ht : x.demandTag = none) : QueueWaits s.demands := by
  refine queueWaits_of_not_serving h ?_
  rintro (⟨n, hn⟩ | ⟨y, hy, hs⟩)
  · have hp := h.engine.transferInItsSlot.mpr (by simp [hx])
    rw [hn] at hp
    exact nomatch hp
  · obtain rfl := Option.some.inj (hx.symm.trans hy)
    simp [ht] at hs

/-- What keeps the phase of a demand's read and the source of the transfer goes on serving. -/
theorem serving_congr {s u : State} (hp : ∀ n, s.eng.phase = .demandReading n → u.eng.phase = .demandReading n)
    (hx : ∀ x, s.xfer = some x → ∃ y, u.xfer = some y ∧ y.demandTag = x.demandTag) (h : serving s) : serving u := by
  obtain ⟨n, hn⟩ | ⟨x, hxs, ht⟩ := h
  · exact .inl ⟨n, hp n hn⟩
  · obtain ⟨y, hy, hyt⟩ := hx x hxs
    exact .inr ⟨y, hy, hyt ▸ ht⟩

/-- A step that leaves the queue's demands and goes on serving. -/
theorem demandInv_congr {s u : State} (h : DemandInv s) (he : EngineInv u) (hd : u.demands = s.demands)
    (hp : ∀ n, s.eng.phase = .demandReading n → u.eng.phase = .demandReading n)
    (hx : ∀ x, s.xfer = some x → ∃ y, u.xfer = some y ∧ y.demandTag = x.demandTag) : DemandInv u :=
  ⟨he, hd ▸ h.list, fun hi => serving_congr hp hx (h.inFlightIsServed (by
    rw [State.demandInFlight, hd] at hi
    exact hi))⟩

/-- A step that leaves engine, transfer and queue alone. -/
theorem demandInv_of_same {s u : State} (h : DemandInv s) (he : u.eng = s.eng) (hx : u.xfer = s.xfer)
    (hd : u.demands = s.demands) : DemandInv u :=
  demandInv_congr h (engineInv_congr h.engine he (by rw [hx])) hd (fun n hn => he ▸ hn)
    (fun x hxs => ⟨x, hx.trans hxs, rfl⟩)

/-- Time leaves the queue, and what serves its demand. -/
theorem State.elapse_demandInv {s : State} (n : Nat) (h : DemandInv s) : DemandInv (s.elapse n) := by
  refine demandInv_congr h (State.elapse_engineInv n h.engine) (by simp) (fun k hk => ?_) (fun x hx => ?_)
  · simp [Engine.elapse, hk]
  · obtain ⟨p, hp⟩ := State.elapse_xfer hx n
    exact ⟨_, hp, rfl⟩

/-- The transfer in progress goes on with another phase. -/
theorem demandInv_moves {s u : State} {x y : Transfer} (h : DemandInv s) (hx : s.xfer = some x) (hu : u.xfer = some y)
    (ht : y.demandTag = x.demandTag) (he : u.eng = s.eng) (hd : u.demands = s.demands) : DemandInv u :=
  demandInv_congr h (engineInv_congr h.engine he (by simp [hx, hu])) hd (fun n hn => he ▸ hn)
    (fun z hz => ⟨y, hu, by rw [ht, Option.some.inj (hx.symm.trans hz)]⟩)

/-! ## Transfers -/

/-- The end of a transfer leaves the queue waiting: its demand has left, or it had none (R71, R125). -/
theorem State.transferReports_waits {s : State} {x : Transfer} (o : OutcomeCode) (h : DemandListInv s.demands)
    (hx : x.demandTag = none → QueueWaits s.demands) : QueueWaits (s.transferReports x o).demands := by
  show QueueWaits ((((s.pointReport x o).faultReport x o).stationReport x o).demandReport x o).demands
  unfold State.demandReport
  split
  · simpa using State.dropInFlight_waits (s := ((s.pointReport x o).faultReport x o).stationReport x o) (by simpa using h)
  next hno =>
    cases ht : x.demandTag with
    | none => simpa using hx ht
    | some tag =>
      have hnone : s.demandInFlight = none := Option.eq_none_iff_forall_ne_some.mpr fun d hd =>
        hno _ d ht (by simpa [State.demandInFlight] using hd)
      simpa using (⟨h, State.demandInFlight_none.mp hnone⟩ : QueueWaits s.demands)

/-- The end of a transfer and its slot. -/
theorem State.endTransfer_waits {s : State} {x : Transfer} (o : OutcomeCode) (h : DemandListInv s.demands)
    (hx : x.demandTag = none → QueueWaits s.demands) : QueueWaits (s.endTransfer x o).demands := by
  have hr := State.transferReports_waits o h hx
  unfold State.endTransfer
  dsimp only
  split
  · exact State.endSlot_waits (by simpa using hr)
  · exact State.endSlot_waits hr

/-- The decision after an attempt: the transfer goes on with its source, or ends. -/
theorem State.afterAttempt_demandInv {s : State} {x : Transfer} (o : OutcomeCode) (he : EngineInv (s.afterAttempt x o))
    (h : DemandListInv s.demands) (hx : x.demandTag = none → QueueWaits s.demands) : DemandInv (s.afterAttempt x o) := by
  have hend : ∀ o', EngineInv (s.endTransfer x o') → DemandInv (s.endTransfer x o') := fun o' he =>
    demandInv_of_waits he (State.endTransfer_waits o' h hx)
  have hgo : ∀ t, EngineInv (s.beginAttempt x t) → DemandInv (s.beginAttempt x t) := fun t he => by
    cases ht : x.demandTag with
    | none => exact demandInv_of_waits he (hx ht)
    | some tag => exact ⟨he, h, fun _ => .inr ⟨_, rfl, by simp [ht]⟩⟩
  revert he
  unfold State.afterAttempt State.retryOrEnd State.turnOrEnd
  repeat' split
  all_goals first
    | exact hend _
    | exact hgo _

/-- The end of an attempt of the transfer in progress. -/
theorem State.endAttempt_demandInv {s : State} {x y : Transfer} (o : OutcomeCode) (c : Option (BitVec 8))
    (h : DemandInv s) (hx : s.xfer = some x) (ht : y.demandTag = x.demandTag) : DemandInv (s.endAttempt y o c) := by
  have he := State.endAttempt_inv y o c h.engine (by simp [hx])
  refine State.afterAttempt_demandInv o he (by simpa using h.list) (fun hn => ?_)
  simpa using queueWaits_of_transfer h hx (ht.symm.trans hn)

/-- The end of an echo. -/
theorem State.echoEnd_demandInv {s : State} {x : Transfer} (h0 h1 : Word) (l : List Word) (e : Echo) (h : DemandInv s)
    (hx : s.xfer = some x) : DemandInv (s.echoEnd x h0 h1 l e) := by
  have hsent := demandInv_of_same h
    (u := s.setTrunk x.trunk { s.trunk x.trunk with lastFrame := frameOnLine (frameWords h0 h1 l) }) rfl rfl rfl
  unfold State.echoEnd
  dsimp only
  repeat' split
  all_goals first
    | exact State.endAttempt_demandInv _ none hsent hx rfl
    | exact demandInv_moves h hx rfl rfl rfl rfl

/-- A reception begins. -/
theorem State.answerSync_demandInv {s : State} {x : Transfer} (f : AnswerFrame) (h : DemandInv s)
    (hx : s.xfer = some x) : DemandInv (s.answerSync x f) := by
  unfold State.answerSync
  dsimp only
  repeat' split
  all_goals exact demandInv_moves h hx rfl rfl rfl rfl

/-! ## Slots -/

/-- The take of a demand from a waiting queue begins its service (R123). -/
theorem State.takeDemand_demandInv {s : State} (hw : QueueWaits s.demands) (he : EngineInv s.takeDemand) :
    DemandInv s.takeDemand := by
  revert he
  unfold State.takeDemand
  split
  · exact fun he => demandInv_of_waits he (State.endSlot_waits hw)
  next ht => exact fun he => ⟨he, takeFirst_inv hw ht, fun _ => .inl ⟨_, rfl⟩⟩

/-- The need of a trunk: the work goes on, or the queue waits. -/
theorem State.needTrunk_demandInv {s : State} {work : State → State} (hw : QueueWaits s.demands)
    (hwork : EngineInv (work s) → DemandInv (work s)) (he : EngineInv (s.needTrunk work)) :
    DemandInv (s.needTrunk work) := by
  revert he
  unfold State.needTrunk
  repeat' split
  · exact hwork
  · exact fun he => demandInv_of_waits he (State.endSlot_waits (by simpa using hw))
  · exact fun he => demandInv_of_waits he (by simpa using hw)

/-- The end of a slot's reads: the queue waits, or the demand taken is served (R42, R123). -/
theorem State.slotReadDone_demandInv {s : State} {n : Nat} (h : DemandInv s) (hp : s.eng.phase = .reading n) :
    DemandInv (s.slotReadDone n) := by
  have he := State.slotReadDone_inv h.engine hp
  have hw : QueueWaits (s.engineReadsOn Config.readLimit).endEngineRead.demands := by
    simpa using queueWaits_of_phase h (by simp [hp]) (by simp [hp])
  have hend := State.endSlot_waits hw
  revert he
  unfold State.slotReadDone State.slotChecked
  split
  · exact fun he => demandInv_of_waits he (State.endSlot_waits (by simpa using hw))
  · split
    · unfold State.slotWork
      split
      · unfold State.transferSlot
        repeat' split
        all_goals first
          | exact fun he => demandInv_of_waits he hend
          | exact fun he => demandInv_of_waits he (State.needTrunk_waits hw (by simpa using hw))
      · exact fun he => demandInv_of_waits he hend
      · unfold State.openSlot
        split
        · exact State.needTrunk_demandInv hw (State.takeDemand_demandInv hw)
        · exact fun he => demandInv_of_waits he hend
      · exact fun he => demandInv_of_waits he (State.needTrunk_waits hw (by simpa using hw))
      · exact fun he => demandInv_of_waits he hw
    · exact fun he => demandInv_of_waits he hend

/-- The end of a demand's read: its service goes over to its transfer, or ends (R123, R124). -/
theorem State.demandReadDone_demandInv {s : State} {n : Nat} (h : DemandInv s) (hp : s.eng.phase = .demandReading n) :
    DemandInv (s.demandReadDone n) := by
  have he := State.demandReadDone_inv n h.engine hp
  have hl : DemandListInv (s.engineReadsOn Config.readLimit).endEngineRead.demands := by simpa using h.list
  revert he
  unfold State.demandReadDone State.demandChecked
  split
  next hnone =>
    exact fun he => demandInv_of_waits he (State.endSlot_waits ⟨hl, by simpa using State.demandInFlight_none.mp hnone⟩)
  next d _ =>
    split
    · exact fun he => demandInv_of_waits he (State.endSlot_waits (by simpa using State.dropInFlight_waits hl))
    · split
      · unfold State.needTrunkForDemand State.handOverDemand
        repeat' split
        · exact fun he => ⟨he, by simpa using hl, fun _ => .inr ⟨_, rfl, rfl⟩⟩
        · exact fun he => ⟨he, by simpa using hl, fun _ => .inr ⟨_, rfl, rfl⟩⟩
        · have hr := State.returnDemand_waits hl
          exact fun he => demandInv_of_waits he (State.needTrunk_waits hr hr)
      · exact fun he => demandInv_of_waits he (State.endSlot_waits (State.returnDemand_waits hl))

/-- The round timer's end: between slots the queue waits, a demand whose record is read returns to WAITING where the
slot ends, and a transfer goes on (R33 to R36, R124). -/
theorem State.timerExpired_demandInv {s : State} (h : DemandInv s) (hw : Walks s) : DemandInv s.timerExpired := by
  have he := State.timerExpired_inv h.engine hw
  revert he
  unfold State.timerExpired
  split
  next hp =>
    exact fun he => demandInv_of_waits he
      (State.endRound_waits (queueWaits_of_phase h (by simp [hp.1]) (by simp [hp.1])))
  · have hgo : ∀ u : State, u.eng.phase = s.eng.phase → u.xfer = s.xfer → u.demands = s.demands → EngineInv u →
        DemandInv u := fun u hp hx hd he =>
      demandInv_congr h he hd (fun n hn => hp.trans hn) (fun x hxs => ⟨x, hx.trans hxs, rfl⟩)
    unfold State.overrun
    dsimp only
    split
    · exact hgo _ rfl rfl rfl
    · split
      · exact hgo _ rfl rfl rfl
      · exact fun he => demandInv_of_waits he (State.endSlot_waits (State.returnDemand_waits h.list))
      all_goals
        rename_i hp
        have hwait := queueWaits_of_phase h (fun n hn => nomatch hp.symm.trans hn) (fun hn => nomatch hp.symm.trans hn)
        exact fun he => demandInv_of_waits he (State.endSlot_waits hwait)

/-! ## Commands -/

/-- An engine that is RUNNING or DRAINING walks. -/
theorem walks_of_state {s : State} (h : EngineInv s) (hs : s.eng.state = .running ∨ s.eng.state = .draining) :
    Walks s ∧ s.eng.timer ≠ .stopped :=
  (EngineInv_cases h).resolve_right fun hr => by
    rcases hr.state with ⟨e, -⟩ | ⟨e, -⟩ <;> simp [e] at hs

/-- An engine that is IDLE or HALTED rests. -/
theorem rests_of_state {s : State} (h : EngineInv s) (hs : s.eng.state = .idle ∨ s.eng.state = .halted) : Rests s :=
  (EngineInv_cases h).resolve_left fun hw => by
    rcases hw.1.state with ⟨e, -⟩ | ⟨e, -⟩ <;> simp [e] at hs

/-- Every demand waits while the engine rests. -/
theorem queueWaits_of_rests {s : State} (h : DemandInv s) (hr : Rests s) : QueueWaits s.demands :=
  queueWaits_of_phase h (by simp [hr.noSlot]) (by simp [hr.noSlot])

/-- The engine goes on walking with its slot, its transfer and the queue. -/
theorem demandInv_walks {s u : State} (h : DemandInv s) (hs : s.eng.state = .running ∨ s.eng.state = .draining)
    (hu : Walks u) (ht : u.eng.timer = s.eng.timer) (hp : u.eng.phase = s.eng.phase) (hx : u.xfer = s.xfer)
    (hd : u.demands = s.demands) : DemandInv u := by
  refine demandInv_congr h (hu.inv ?_ ?_) hd (fun n hn => hp.trans hn) (fun x hxs => ⟨x, hx.trans hxs, rfl⟩)
  · rw [ht]
    exact (walks_of_state h.engine hs).2
  · rw [hp, hx]
    exact h.engine.transferInItsSlot

/-- The completion of a command leaves engine and queue. -/
theorem demandInv_complete {s : State} (h : DemandInv s) (r : ResultCode) (d : Word) : DemandInv (s.complete r d) :=
  demandInv_of_same h rfl rfl rfl

/-- START and STEP begin a sweep from IDLE, where every demand waits (R25, R26). -/
theorem State.beginSweep_demandInv {s : State} {new : EngineState} {stop : StopPoint} (k : Nat) (h : DemandInv s)
    (hs : s.eng.state = .idle) (ha : ¬s.eng.active.isNone = true)
    (hn : (new = .running ∧ stop = .none) ∨ (new = .draining ∧ stop ≠ .none)) :
    DemandInv (s.changeEngine new stop k).beginSweep := by
  have hr := rests_of_state h.engine (.inl hs)
  have hh : s.eng.halt = .none := by
    rcases hr.state with ⟨-, e⟩ | ⟨e, -⟩
    · exact e
    · simp [hs] at e
  have hwait := queueWaits_of_rests h hr
  have hw : Walks (s.changeEngine new stop k) := ⟨hn, hh, by simpa [Option.isSome_iff_ne_none] using ha⟩
  exact demandInv_of_waits (State.beginSweep_inv hw (by simp [hr.noSlot]) (by simpa using hr.noTransfer))
    (State.beginRound_waits 0 (by simpa using hwait))

/-- START (R25). -/
theorem State.start_demandInv {s : State} (h : DemandInv s) : DemandInv s.start := by
  unfold State.start
  split
  next hs =>
    split
    · exact demandInv_complete h _ _
    next ha => exact demandInv_complete (State.beginSweep_demandInv _ h hs ha (.inl ⟨rfl, rfl⟩)) _ _
  · exact demandInv_complete h _ _
  next hs =>
    obtain ⟨hw, -⟩ := walks_of_state h.engine (.inr hs)
    exact demandInv_walks h (.inr hs) ⟨.inl ⟨rfl, rfl⟩, hw.noHalt, hw.plan⟩ rfl rfl rfl rfl
  · exact demandInv_complete h _ _

/-- STEP (R26). -/
theorem State.stepRound_demandInv {s : State} (h : DemandInv s) : DemandInv s.stepRound := by
  unfold State.stepRound
  split
  next hs =>
    split
    · exact demandInv_complete h _ _
    next ha => exact demandInv_complete (State.beginSweep_demandInv (stop := .roundEnd) _ h hs ha (.inr ⟨rfl, nofun⟩)) _ _
  all_goals exact demandInv_complete h _ _

/-- STOP ROUND (R27). -/
theorem State.stopRound_demandInv {s : State} (h : DemandInv s) : DemandInv s.stopRound := by
  unfold State.stopRound
  split
  next hs =>
    obtain ⟨hw, -⟩ := walks_of_state h.engine (.inl hs)
    exact demandInv_walks h (.inl hs) ⟨.inr ⟨rfl, nofun⟩, hw.noHalt, hw.plan⟩ rfl rfl rfl rfl
  next hs =>
    obtain ⟨hw, -⟩ := walks_of_state h.engine (.inr hs)
    exact demandInv_walks h (.inr hs) ⟨.inr ⟨hs, nofun⟩, hw.noHalt, hw.plan⟩ rfl rfl rfl rfl
  all_goals exact demandInv_complete h _ _

/-- STOP SWEEP (R27). -/
theorem State.stopSweep_demandInv {s : State} (h : DemandInv s) : DemandInv s.stopSweep := by
  unfold State.stopSweep
  split
  next hs =>
    obtain ⟨hw, -⟩ := walks_of_state h.engine (.inl hs)
    exact demandInv_walks h (.inl hs) ⟨.inr ⟨rfl, nofun⟩, hw.noHalt, hw.plan⟩ rfl rfl rfl rfl
  all_goals exact demandInv_complete h _ _

/-- CLEAR HALT (R30). -/
theorem State.clearHalt_demandInv {s : State} (h : DemandInv s) : DemandInv s.clearHalt := by
  unfold State.clearHalt
  split
  next hs =>
    have hr := rests_of_state h.engine (.inr hs)
    have hwait := queueWaits_of_rests h hr
    exact demandInv_of_waits (Rests.inv ⟨.inl ⟨rfl, rfl⟩, rfl, hr.noSlot, hr.timer, hr.noPending, hr.noTransfer⟩) hwait
  all_goals exact demandInv_complete h _ _

/-- ABORT ends what the slot serves, and the queue waits (R29, R124). -/
theorem State.abortSlot_waits {s : State} (h : DemandInv s) :
    QueueWaits s.abortSlot.demands ∧ s.abortSlot.xfer = none := by
  unfold State.abortSlot
  split
  next x hx =>
    refine ⟨State.transferReports_waits _ (by simpa using h.list) (fun ht => ?_), rfl⟩
    simpa using queueWaits_of_transfer h hx ht
  next hx =>
    split
    · exact ⟨by simpa using State.dropInFlight_waits h.list, by simpa using hx⟩
    next hno =>
      refine ⟨?_, hx⟩
      by_cases hp : ∃ n, s.eng.phase = .demandReading n
      · obtain ⟨n, hn⟩ := hp
        exact ⟨h.list, State.demandInFlight_none.mp (Option.eq_none_iff_forall_ne_some.mpr fun d => hno n d hn)⟩
      · exact queueWaits_of_not_serving h (not_serving (fun n hn => hp ⟨n, hn⟩) hx)

/-- ABORT (R29). -/
theorem State.abort_demandInv {s : State} (h : DemandInv s) : DemandInv s.abort := by
  obtain ⟨hw, hx⟩ := State.abortSlot_waits h
  have hr : Rests (s.abortSlot.stopEngine .idle .none engineCauseAbort) :=
    State.stopEngine_rests _ hx (.inl ⟨rfl, rfl⟩)
  have hstop : DemandInv (s.abortSlot.stopEngine .idle .none engineCauseAbort) :=
    demandInv_of_waits hr.inv (by simpa using hw)
  unfold State.abort
  split
  · exact demandInv_complete h _ _
  · exact demandInv_complete h _ _
  all_goals
    dsimp only
    split
    · exact demandInv_of_same hstop rfl rfl rfl
    · exact demandInv_complete hstop _ _

/-- ENGINE RESET empties the queue and leaves the engine IDLE (R46, R118). -/
theorem State.engineReset_demandInv (s : State) : DemandInv s.engineReset := by
  have hreset : DemandInv s.resetRunTime := demandInv_of_waits
    (Rests.inv ⟨.inl ⟨rfl, rfl⟩, rfl, rfl, rfl, rfl, rfl⟩)
    ⟨by constructor <;> simp [State.resetRunTime], by simp [State.resetRunTime]⟩
  unfold State.engineReset
  split
  · exact demandInv_of_same hreset rfl rfl rfl
  · exact demandInv_complete hreset _ _

/-- A pending switch cancelled (R17). -/
theorem State.cancelSwitch_demandInv {s : State} (h : DemandInv s) : DemandInv s.cancelSwitch := by
  unfold State.cancelSwitch
  split
  · exact demandInv_complete h _ _
  · refine demandInv_congr h ?_ rfl (fun n hn => hn) (fun x hx => ⟨x, hx, rfl⟩)
    exact ⟨h.engine.haltedHasCause, h.engine.drainingHasStop, h.engine.restingHasNoSlot, h.engine.restingTimerStopped,
      fun _ => rfl, h.engine.runningHasPlan, h.engine.transferInItsSlot⟩

/-- STATION DISABLE detaches the transfer in progress at most, which keeps its source (R84). -/
theorem State.stationDisable_demandInv {s : State} (h : DemandInv s) : DemandInv s.stationDisable := by
  have hdetach : ∀ u n, DemandInv u → DemandInv (u.detach n) := fun u n hu => by
    unfold State.detach
    split
    next x hx =>
      split
      · exact demandInv_moves hu hx rfl rfl rfl rfl
      · exact hu
    next => exact hu
  unfold State.stationDisable
  split
  · exact demandInv_complete h _ _
  · dsimp only
    split
    · exact demandInv_complete h _ _
    · exact demandInv_complete (hdetach _ _ (demandInv_of_same h (by simp) (by simp) (by simp))) _ _

/-- DEMAND CANCEL takes one waiting demand from the queue at most (R127). -/
theorem State.demandCancel_demandInv {s : State} (h : DemandInv s) : DemandInv s.demandCancel := by
  unfold State.demandCancel
  split
  · exact demandInv_complete h _ _
  next tag _ =>
    split
    · exact demandInv_complete h _ _
    · split
      · exact demandInv_complete h _ _
      · have hs : (s.demands.eraseP (fun e => e.tag == tag)).Sublist s.demands := List.eraseP_sublist
        refine ⟨engineInv_congr h.engine (by simp) (by simp), DemandListInv_sublist h.list (by simpa using hs), fun hi => ?_⟩
        refine serving_congr (s := s) (fun n hn => by simpa using hn) (fun x hx => ⟨x, by simpa using hx, rfl⟩)
          (h.inFlightIsServed ?_)
        simp only [State.demandInFlight, List.find?_isSome] at hi ⊢
        obtain ⟨d, hd, hf⟩ := hi
        exact ⟨d, hs.subset (by simpa using hd), hf⟩

/-- Every command keeps engine and queue. -/
theorem State.act_demandInv {s : State} (code : Word) (h : DemandInv s) : DemandInv (s.act code) := by
  unfold State.act
  split
  · exact State.start_demandInv h
  · exact State.stepRound_demandInv h
  · exact State.stopRound_demandInv h
  · exact State.stopSweep_demandInv h
  · exact State.abort_demandInv h
  · exact State.clearHalt_demandInv h
  · exact s.engineReset_demandInv
  · unfold State.switchPlan
    repeat' split
    · exact State.cancelSwitch_demandInv h
    all_goals exact demandInv_of_same h rfl rfl rfl
  case h_11 => exact State.stationDisable_demandInv h
  case h_16 => exact State.demandCancel_demandInv h
  all_goals exact demandInv_of_same h (by simp) (by simp) (by simp)

/-! ## Held commands -/

/-- A bank found valid becomes active while the engine rests, and pending while it walks (R15). -/
theorem State.validationDone_demandInv {s : State} (forSwitch : Bool) (bank : Bank) (base : Nat) (h : DemandInv s) :
    DemandInv (s.validationDone forSwitch bank base) := by
  have hread : DemandInv (s.commandReadsOn Config.readLimit).endCommandRead :=
    demandInv_of_same h (by simp) (by simp) (by simp)
  unfold State.validationDone State.validated
  split
  · exact demandInv_complete hread _ _
  next g _ =>
    split
    · have hrest : Rests (s.commandReadsOn Config.readLimit).endCommandRead →
          DemandInv (((s.commandReadsOn Config.readLimit).endCommandRead.activate g).complete .done 0) := fun hr =>
        demandInv_of_waits
          (Rests.inv ⟨hr.state, hr.noStop, hr.noSlot, hr.timer, hr.noPending, by simpa using hr.noTransfer⟩)
          (by simpa using queueWaits_of_rests hread hr)
      have hwalk : Walks (s.commandReadsOn Config.readLimit).endCommandRead → Walks
          (({ (s.commandReadsOn Config.readLimit).endCommandRead with
            eng := { (s.commandReadsOn Config.readLimit).endCommandRead.eng with pending := some g } } : State).complete
              .done 1) := fun hw => ⟨hw.state, hw.noHalt, hw.plan⟩
      unfold State.switchTo
      split
      next hs => exact hrest (rests_of_state hread.engine (.inl hs))
      next hs => exact hrest (rests_of_state hread.engine (.inr hs))
      next hs =>
        exact demandInv_walks hread (.inl hs) (hwalk (walks_of_state hread.engine (.inl hs)).1) rfl rfl rfl rfl
      next hs =>
        exact demandInv_walks hread (.inr hs) (hwalk (walks_of_state hread.engine (.inr hs)).1) rfl rfl rfl rfl
    · exact demandInv_complete hread _ _

/-- An accepted demand joins a queue with room that shares neither point nor tag (R120, R121). -/
theorem State.judgePost_demandInv {s : State} (p tag : BitVec 8) (high : Bool) (deadline station : Nat)
    (h : DemandInv s) : DemandInv (s.judgePost p high deadline tag station) := by
  unfold State.judgePost
  dsimp only
  split
  · exact demandInv_complete h _ _
  · split
    · exact demandInv_complete h _ _
    next hroom =>
      split
      · exact demandInv_complete h _ _
      next hdup =>
        obtain ⟨hp, ht⟩ := duplicateCode_zero (not_not.mp hdup)
        refine ⟨engineInv_congr h.engine rfl rfl, joinDemand_inv h.list (Nat.lt_of_not_le hroom) hp ht rfl, fun hi => ?_⟩
        refine serving_congr (s := s) (fun n hn => hn) (fun x hx => ⟨x, hx, rfl⟩) (h.inFlightIsServed ?_)
        simp only [State.demandInFlight, List.find?_isSome] at hi ⊢
        obtain ⟨d, hd, hf⟩ := hi
        rcases List.mem_cons.mp ((joinDemand_perm _ _).subset hd) with rfl | hd
        · exact nomatch hf
        · exact ⟨d, hd, hf⟩

/-! ## The rows -/

/-- Every row keeps engine and queue consistent. -/
theorem rows_demandInv : RowsLead DemandInv DemandInv where
  stays _ h := h
  served _ h := demandInv_of_same h (by simp) (by simp) (by simp)
  access s a x h := State.hostAccess_leads a x (fun _ e => demandInv_of_same h e.eng e.xfer e.demands)
    (fun _ _ _ _ => State.act_demandInv _ (demandInv_of_same h rfl rfl rfl))
  cancelSwitch s h := State.takeCancel_leads (fun _ e => demandInv_of_same h e.eng e.xfer e.demands)
    (fun _ => State.cancelSwitch_demandInv (demandInv_of_same h rfl rfl rfl))
  resetRelease _ h := demandInv_of_same h rfl rfl rfl
  quietComes _ n h := demandInv_complete (State.elapse_demandInv n h) _ _
  validation _ forSwitch bank base h := State.validationDone_demandInv forSwitch bank base h
  pointRead _ _ _ h := demandInv_of_same h (by simp) (by simp) (by simp)
  postCheck s p high deadline tag h := by
    have hread : DemandInv (s.commandReadsOn Config.readLimit).endCommandRead :=
      demandInv_of_same h (by simp) (by simp) (by simp)
    unfold State.postCheckDone State.postChecked
    split
    · exact demandInv_complete hread _ _
    · exact State.judgePost_demandInv _ _ _ _ _ hread
  roundTimer _ n h ht :=
    State.timerExpired_demandInv (State.elapse_demandInv n h)
      (State.elapse_walks n (EngineInv_walks h.engine (.inr (by simp [ht]))).1)
  slotRead _ _ h hp := State.slotReadDone_demandInv h hp
  demandRead _ _ h hp := State.demandReadDone_demandInv h hp
  pause s n h hp := by
    obtain ⟨hw, ht⟩ := EngineInv_walks h.engine (.inl (by simp [hp]))
    have hwait := queueWaits_of_phase h (by simp [hp]) (by simp [hp])
    exact demandInv_of_waits
      (State.endSlot_inv (State.elapse_walks n hw) (fun e => ht ((s.elapse_timer n).mp e))
        (State.elapse_xfer_none (EngineInv_noTransfer h.engine (by simp [hp])) n))
      (State.endSlot_waits (by simpa using hwait))
  callStart _ _ n _ h _ hy := demandInv_moves (State.elapse_demandInv n h) hy rfl rfl rfl rfl
  attemptEnd _ _ n _ o h _ hy := State.endAttempt_demandInv o none (State.elapse_demandInv n h) hy rfl
  echo _ _ n _ h0 h1 l e h _ hy := State.echoEnd_demandInv h0 h1 l e (State.elapse_demandInv n h) hy
  sync _ _ f h hx := State.answerSync_demandInv f h hx
  lateAnswer _ _ _ h _ := demandInv_of_same h rfl rfl rfl
  answer _ _ n y f h _ hy := State.endAttempt_demandInv _ _ (State.elapse_demandInv n h) hy (by
    unfold Transfer.afterAnswer
    split <;> rfl)
  burstDue _ _ n _ h _ := demandInv_of_same (State.elapse_demandInv n h) rfl rfl rfl
  burstStart _ _ n h _ := demandInv_of_same (State.elapse_demandInv n h) rfl rfl rfl
  burstEnd _ _ n _ h _ := demandInv_of_same (State.elapse_demandInv n h) (by simp) (by simp) (by simp)
  trainingTimer _ _ n h _ := demandInv_of_same (State.elapse_demandInv n h) rfl rfl rfl
  published _ h := demandInv_of_same h (by simp) (by simp) (by simp)
  activity _ _ _ h := demandInv_of_same h (by simp) (by simp) (by simp)

/-- Settles O58: the rows and time keep the relations, and pin reset leaves an idle engine and an empty queue. -/
theorem everyStepKeepsEngineAndDemands : Obligations.EveryStepKeepsEngineAndDemands := fun _ _ =>
  rows_demandInv.step (fun _ _ h => demandInv_of_same h rfl rfl rfl) (fun _ n h => State.elapse_demandInv n h)
    (fun _ _ => demandInv_of_waits (Rests.inv ⟨.inl ⟨rfl, rfl⟩, rfl, rfl, rfl, rfl, rfl⟩)
      ⟨by constructor <;> simp [State.pinReset, State.reset], by simp [State.pinReset, State.reset]⟩)

end Sys2Proof.Machine
end

section
/-! The queue, the passing of time and the two edges of RESET: what a step takes, what time moves, and what the part is
right after reset. -/

namespace Sys2Proof.Machine

open Sys2Proof.Safety

/-- States that agree in every field are one. -/
theorem State.ext_fields {s t : State} (pending : s.pending = t.pending) (port : s.port = t.port) (cmd : s.cmd = t.cmd)
    (set : s.set = t.set) (eng : s.eng = t.eng) (xfer : s.xfer = t.xfer) (stations : s.stations = t.stations)
    (points : s.points = t.points) (demands : s.demands = t.demands) (trunkA : s.trunkA = t.trunkA)
    (trunkB : s.trunkB = t.trunkB) (ring : s.ring = t.ring) (ram : s.ram = t.ram) (time : s.time = t.time)
    (lastGrant : s.lastGrant = t.lastGrant) (traffic : s.traffic = t.traffic) : s = t := by
  cases s
  cases t
  simp_all

/-! ## The queue -/

/-- Settles O1: that is how a step is defined. -/
theorem queueFrontIsExecuted : Obligations.QueueFrontIsExecuted := fun _ _ _ h => by
  rw [Sys2Proof.Machine.step, h]

/-- The queue of the commands that wait is `q`. -/
def QueueIs (q : List Instr) (s : State) : Prop := s.pending = q

/-- No row moves the queue. -/
theorem rows_queue (q : List Instr) : RowsLead (QueueIs q) (QueueIs q) where
  stays _ h := h
  served _ h := by simpa [QueueIs] using h
  access _ _ _ h := by simpa [QueueIs] using h
  cancelSwitch _ h := by simpa [QueueIs] using h
  resetRelease _ h := h
  quietComes _ _ h := by simpa [QueueIs] using h
  validation _ _ _ _ h := by simpa [QueueIs] using h
  pointRead _ _ _ h := by simpa [QueueIs] using h
  postCheck _ _ _ _ _ h := by simpa [QueueIs] using h
  roundTimer _ _ h _ := by simpa [QueueIs] using h
  slotRead _ _ h _ := by simpa [QueueIs] using h
  demandRead _ _ h _ := by simpa [QueueIs] using h
  pause _ _ h _ := by simpa [QueueIs] using h
  callStart _ _ _ _ h _ _ := by simpa [QueueIs] using h
  attemptEnd _ _ _ _ _ h _ _ := by simpa [QueueIs] using h
  echo _ _ _ _ _ _ _ _ h _ _ := by simpa [QueueIs] using h
  sync _ _ _ h _ := by simpa [QueueIs] using h
  lateAnswer _ _ _ h _ := by simpa [QueueIs] using h
  answer _ _ _ _ _ h _ _ := by simpa [QueueIs] using h
  burstDue _ _ _ _ h _ := by simpa [QueueIs] using h
  burstStart _ _ _ h _ := by simpa [QueueIs] using h
  burstEnd _ _ _ _ h _ := by simpa [QueueIs] using h
  trainingTimer _ _ _ h _ := by simpa [QueueIs] using h
  published _ h := by simpa [QueueIs] using h
  activity _ _ _ h := by simpa [QueueIs] using h

/-- Every row answers a next state: an access, an event of the part, or RESET_RELEASE. -/
theorem exec_next (c : Instr) (s : State) : ∃ t, exec c s = .next t := by
  cases hh : isHostAccess c with
  | true =>
    obtain ⟨a, x, -, e⟩ | e := exec_of_isHostAccess hh s
    · exact ⟨_, e⟩
    · exact ⟨_, e⟩
  | false =>
    by_cases hr : c = .resetRelease
    · subst hr
      exact ⟨_, rfl⟩
    · exact ⟨_, exec_of_partEvent hh hr s⟩

/-- Settles O3: every row answers a next state, and neither the rows nor pin reset move the queue. -/
theorem everyCommandRunsAndKeepsTheQueue : Obligations.EveryCommandRunsAndKeepsTheQueue := by
  intro c s
  obtain ⟨t, e⟩ := exec_next c s
  refine ⟨t, e, ?_⟩
  by_cases hp : c = .pinReset
  · subst hp
    obtain rfl := Host.Outcome.next.inj e
    simp
  · exact (rows_queue s.pending).exec hp rfl e

/-! ## Time -/

/-- Time moves a trunk interface by its own timers only. -/
@[simp] theorem State.elapse_trunk (s : State) (n : Nat) (k : TrunkId) : (s.elapse n).trunk k = (s.trunk k).elapse n := by
  cases k <;> simp [State.trunk, State.elapse]

/-- Time moves the bounds of a held command's wait only. -/
@[simp] theorem State.elapse_cmd (s : State) (n : Nat) : (s.elapse n).cmd = s.cmd.elapse n := by
  simp [State.elapse]

/-- Time counts on (R48). -/
@[simp] theorem State.elapse_time (s : State) (n : Nat) : (s.elapse n).time = s.time + BitVec.ofNat 32 n := by
  simp [State.elapse]

/-- Only words of a call to read and words of an answer to store bring grants while time passes (R57, R61). -/
theorem State.elapse_quiet {s : State} (n : Nat)
    (h : ∀ x, s.xfer = some x → (∀ a b c d e, x.phase ≠ .sending a b c d e) ∧ ∀ a f page d, x.phase ≠ .receiving a f page d) :
    (s.elapse n).ram = s.ram ∧ (s.elapse n).traffic = s.traffic ∧ (s.elapse n).lastGrant = s.lastGrant := by
  unfold State.elapse State.elapseAttempt
  cases hx : s.xfer with
  | none => exact ⟨rfl, rfl, rfl⟩
  | some x =>
    obtain ⟨hs, hr⟩ := h x hx
    dsimp only
    cases hp : x.phase with
    | gap => dsimp only; split <;> exact ⟨rfl, rfl, rfl⟩
    | occupancy | window => exact ⟨rfl, rfl, rfl⟩
    | sending => exact absurd hp (hs _ _ _ _ _)
    | receiving => exact absurd hp (hr _ _ _ _)

/-- Settles O2: a step on an empty queue is `tick`, and time is read off `elapse`, block by block. -/
theorem idleStepIsOneMicrosecond : Obligations.IdleStepIsOneMicrosecond := by
  refine ⟨fun s hq => ?_, ?_⟩
  · have hstep : step s = .next s.tick := by rw [Sys2Proof.Machine.step, hq]
    exact ⟨fun hr => by rw [hstep, State.tick, if_pos hr], fun hr => by rw [hstep, State.tick, if_neg (by simp [hr])]⟩
  rintro s t n rfl
  refine ⟨?_, ?_, ?_, ?_, ?_, ?_, ?_, fun k => ⟨?_, ?_, ?_, ?_, ?_⟩, ?_, ?_, ?_, ?_, fun hx => ?_, State.elapse_quiet n⟩
  · apply State.ext_fields <;> simp
  · simp [Engine.elapse]
  · intro left h; simp [Engine.elapse, h]
  · intro h; cases ht : s.eng.timer <;> simp_all [Engine.elapse]
  · intro k h; simp [Engine.elapse, h]
  · intro k h; simp [Engine.elapse, h]
  · intro h; cases hp : s.eng.phase <;> simp_all [Engine.elapse]
  · simp [Trunk.elapse]
  · intro h
    rw [State.elapse_trunk, Trunk.elapse, if_neg (by simp; omega)]
  · intro h1 h2
    simp [Trunk.elapse, h1, h2, Config.longestGap]
  · intro left h; simp [Trunk.elapse, h]
  · intro h; cases hb : (s.trunk k).burst <;> simp_all [Trunk.elapse]
  · simp [CommandUnit.elapse]
  · intro args k left h; simp [CommandUnit.elapse, h, CommandWork.elapse]
  · intro args k left h; simp [CommandUnit.elapse, h, CommandWork.elapse]
  · intro h
    rw [State.elapse_cmd]
    cases hh : s.cmd.held with
    | none => simp [CommandUnit.elapse, hh]
    | some held =>
      obtain ⟨args, work⟩ := held
      cases work with
      | abortWait k left => exact absurd hh (h args k left).1
      | resetWait k left => exact absurd hh (h args k left).2
      | _ => simp [CommandUnit.elapse, hh, CommandWork.elapse]
  · exact State.elapse_xfer_none hx n

/-! ## RESET -/

/-- What pin reset leaves of a line (R131): what its receiver heard, a transmission of the part being cut. -/
theorem State.pinResetTrunk_eq (s : State) (k : TrunkId) {gap quiet : Nat}
    (ht : transmits s k → gap = 16 ∧ quiet = (s.trunk k).frameLeft + 16)
    (hn : ¬transmits s k → gap = (s.trunk k).gapHold ∧ quiet = (s.trunk k).quietHold) :
    s.pinResetTrunk k =
      { Trunk.reset with gapHold := gap, quietHold := quiet, frameLeft := (s.trunk k).frameLeft } := by
  by_cases h : transmits s k
  · obtain ⟨rfl, rfl⟩ := ht h
    simp [State.pinResetTrunk, (State.transmitting_iff s k).mpr h, Trunk.cutLine, Config.longestGap]
  · obtain ⟨rfl, rfl⟩ := hn h
    have hf : s.transmitting k = false := Bool.eq_false_iff.mpr fun ht => h ((s.transmitting_iff k).mp ht)
    simp [State.pinResetTrunk, hf]

/-- While RESET is asserted no access of the host is taken (R176). -/
theorem exec_of_reset {c : Instr} {s : State} (hc : isHostAccess c = true) (hr : s.port.resetAsserted = true) :
    exec c s = .next s := by
  obtain ⟨a, x, -, e⟩ | e := exec_of_isHostAccess hc s
  · rw [e, State.served_of_reset hr, State.hostAccess_reset a x hr]
  · rw [e, State.served_of_reset hr, State.takeCommand, if_pos hr]

/-- Settles O4: the state after pin reset is written out, and each register's reset value evaluated. -/
theorem pinResetClearsAllButMemory : Obligations.PinResetClearsAllButMemory := by
  refine ⟨?_, fun _ => rfl, fun c s => exec_of_reset, ?_⟩
  · rintro s₀ s gap quiet rfl h
    refine ⟨_, rfl, rfl, rfl, rfl, ?_⟩
    have hA := State.pinResetTrunk_eq s₀.served .a (h .a).1 (h .a).2
    have hB := State.pinResetTrunk_eq s₀.served .b (h .b).1 (h .b).2
    rw [State.pinReset, hA, hB]
    rfl
  · simp only [List.forall_mem_cons]
    repeat' apply And.intro
    all_goals first
      | rfl
      | exact nofun

/-- The part right after reset meets the invariant of the trunks: both are OFF. -/
theorem Trunk.reset_inv : TrunkInv .reset := by
  constructor <;> decide

/-- Settles O54. -/
theorem resetMeetsEveryInvariant : Obligations.ResetMeetsEveryInvariant :=
  ⟨State.reset_ram_wf, Ring.reset_inv, stationsInv_of_reset rfl,
    demandInv_of_waits (Rests.inv ⟨.inl ⟨rfl, rfl⟩, rfl, rfl, rfl, rfl, rfl⟩)
      ⟨by constructor <;> simp [State.reset], by simp [State.reset]⟩,
    ⟨⟨Trunk.reset_inv, Trunk.reset_inv⟩, onReady_none rfl⟩, Settings.reset_inv,
    fun p h => by simp [State.point, State.reset, PointEntry.reset] at h, fun h => nomatch h⟩

end Sys2Proof.Machine
end

section
/-! The arbiter (R169): its choice by the distance in the cyclic order, who is granted before a turn, and the host's
access to shared memory. -/

namespace Sys2Proof.Machine

open Sys2Proof.Safety

/-! ## The cyclic order -/

/-- The rotating requesters have four places. -/
theorem place_lt (r : Requester) : place r < 4 := by cases r <;> decide

/-- Each place is one requester's. -/
theorem place_inj {q r : Requester} (h : place q = place r) : q = r := by
  cases q <;> cases r <;> first | rfl | exact nomatch h

/-- At most three stand before a turn. -/
theorem standingBefore_lt (last r : Requester) : standingBefore last r < 4 := Nat.mod_lt _ (by decide)

/-- The next in the order stands first. -/
theorem standingBefore_next_self (last : Requester) : standingBefore last last.next = 0 := by cases last <;> rfl

/-- Two requesters do not stand alike. -/
theorem standingBefore_inj {last q r : Requester} (h : standingBefore last q = standingBefore last r) : q = r := by
  have := place_lt last
  have := place_lt q
  have := place_lt r
  refine place_inj ?_
  unfold standingBefore at h
  omega

/-- The one granted last stands last. -/
theorem standingBefore_self (r : Requester) : standingBefore r r = 3 := by cases r <;> rfl

/-- One turn on, one fewer stands before any requester but the one whose turn it is. -/
theorem standingBefore_next (last r : Requester) :
    standingBefore last r = if r = last.next then 0 else standingBefore last.next r + 1 := by
  cases last <;> cases r <;> rfl

/-- Who comes between a turn and a later one comes before the later one. -/
theorem standingBefore_trans {last p q r : Requester} (hq : standingBefore last q < standingBefore last r)
    (hp : standingBefore q p < standingBefore q r) : standingBefore last p < standingBefore last r := by
  have := place_lt last
  have := place_lt p
  have := place_lt q
  have := place_lt r
  unfold standingBefore at *
  omega

/-! ## The choice -/

/-- Of the next `n` in the order, the one that asks and stands first is chosen. -/
theorem firstWaiting_eq_some (w : Waiting) (r : Requester) (n : Nat) (last : Requester) :
    firstWaiting w last n = some r ↔ w.asks r = true ∧ standingBefore last r < n ∧
      ∀ q, w.asks q = true → standingBefore last r ≤ standingBefore last q := by
  induction n generalizing last with
  | zero => simp [firstWaiting]
  | succ k ih =>
    unfold firstWaiting
    by_cases hw : w.asks last.next = true
    · rw [if_pos hw]
      constructor
      · intro h
        obtain rfl := Option.some.inj h
        simp [standingBefore_next_self, hw]
      · rintro ⟨-, -, hmin⟩
        have hle := hmin _ hw
        rw [standingBefore_next_self] at hle
        exact congrArg some (standingBefore_inj (last := last) (by rw [standingBefore_next_self]; omega))
    · rw [if_neg hw, ih]
      have hne : ∀ q, w.asks q = true → standingBefore last q = standingBefore last.next q + 1 := by
        intro q hq
        rw [standingBefore_next, if_neg]
        rintro rfl
        exact hw hq
      constructor
      · rintro ⟨hr, hn, hmin⟩
        refine ⟨hr, by rw [hne r hr]; omega, fun q hq => ?_⟩
        rw [hne r hr, hne q hq]
        exact Nat.succ_le_succ (hmin q hq)
      · rintro ⟨hr, hn, hmin⟩
        rw [hne r hr] at hn
        refine ⟨hr, by omega, fun q hq => ?_⟩
        have := hmin q hq
        rw [hne r hr, hne q hq] at this
        omega

/-- Of the next `n` in the order none is chosen where none asks. -/
theorem firstWaiting_eq_none (w : Waiting) (n : Nat) (last : Requester) :
    firstWaiting w last n = none ↔ ∀ q, standingBefore last q < n → w.asks q = false := by
  induction n generalizing last with
  | zero => simp [firstWaiting]
  | succ k ih =>
    unfold firstWaiting
    by_cases hw : w.asks last.next = true
    · rw [if_pos hw]
      refine ⟨nofun, fun h => absurd (h last.next ?_) (by simp [hw])⟩
      rw [standingBefore_next_self]
      omega
    · rw [if_neg hw, ih]
      refine ⟨fun h q hq => ?_, fun h q hq => h q ?_⟩
      · rw [standingBefore_next] at hq
        split at hq
        next e => simpa [e] using hw
        next => exact h q (by omega)
      · rw [standingBefore_next]
        split <;> omega

/-- The rotation chooses the waiting requester that stands first after the one granted last (R169). -/
theorem arbitrate_eq_rotating (w : Waiting) (last r : Requester) :
    arbitrate false w last = some (.rotating r) ↔
      w.asks r = true ∧ ∀ q, w.asks q = true → standingBefore last r ≤ standingBefore last q := by
  have hsome : arbitrate false w last = some (.rotating r) ↔ firstWaiting w last 4 = some r := by
    unfold arbitrate
    cases firstWaiting w last 4 <;> simp
  rw [hsome, firstWaiting_eq_some]
  simp [standingBefore_lt]

/-- The rotation chooses nobody exactly where nobody waits. -/
theorem arbitrate_eq_none (w : Waiting) (last : Requester) :
    arbitrate false w last = none ↔ ∀ q, w.asks q = false := by
  simp [arbitrate, firstWaiting_eq_none, standingBefore_lt]

/-! ## The grants before a turn -/

/-- Who is granted before a turn stands before it, and nobody twice (R169). -/
theorem State.untilTurn_before (s : State) (r : Requester) (n : Nat) :
    ∃ before : List Requester, before.Nodup ∧
      (∀ q ∈ before, standingBefore s.lastGrant q < standingBefore s.lastGrant r) ∧
        s.untilTurn r n = before.foldl State.grant s := by
  induction n generalizing s with
  | zero => exact ⟨[], List.nodup_nil, nofun, rfl⟩
  | succ k ih =>
    unfold State.untilTurn
    split
    next q hq =>
      obtain ⟨-, hfirst⟩ := (arbitrate_eq_rotating _ _ _).mp hq
      split
      · exact ⟨[], List.nodup_nil, nofun, rfl⟩
      · next hne =>
        have hlt : standingBefore s.lastGrant q < standingBefore s.lastGrant r :=
          Nat.lt_of_le_of_ne (hfirst r (Waiting.asks_and _ r)) (fun h => hne (standingBefore_inj h))
        obtain ⟨before, hnodup, hbefore, e⟩ := ih (s.grant q)
        have hfrom : ∀ p ∈ before, standingBefore q p < standingBefore q r := hbefore
        refine ⟨q :: before, List.nodup_cons.mpr ⟨fun hmem => ?_, hnodup⟩,
          List.forall_mem_cons.mpr ⟨hlt, fun p hp => standingBefore_trans hlt (hfrom p hp)⟩, e⟩
        have := hfrom q hmem
        have := standingBefore_lt q r
        rw [standingBefore_self] at *
        omega
    next => exact ⟨[], List.nodup_nil, nofun, rfl⟩

/-! ## Shared memory -/

/-- An access of the host from 4000h up is granted in its turn (R166, R169). -/
theorem exec_sharedAccess {a : HostAddress} (x : Access) {s : State} (hr : s.served.port.resetAsserted = false)
    (ha : 0x4000 ≤ a.toNat) :
    exec (.hostSharedMemoryAccess a x) s = .next (s.served.sharedAccess (a.toNat - 0x4000) x) := by
  rw [exec_of_busCycle rfl, State.hostAccess_shared x hr ha]

/-- The addresses from 4000h up are those of the RAM. -/
theorem ramAddress_of_host {a : HostAddress} : ramAddress (a.toNat - 0x4000) = a.toNat - 0x4000 :=
  ramAddress_of_lt (by have := a.isLt; unfold Config.ramWords; omega)

/-- Settles O5: the word is read and stored in the host's turn, and the arbiter's clauses are the lemmas above. -/
theorem sharedMemoryAccessReachesOneWord : Obligations.SharedMemoryAccessReachesOneWord := by
  refine ⟨?access, ?turn, ?idle, State.grant_only, fun _ => rfl, State.served_only, ?served, fun _ _ => rfl,
    arbitrate_eq_rotating, arbitrate_eq_none⟩
  case access =>
    rintro a s₀ s u rfl hr ha rfl
    refine ⟨?_, fun v => ⟨_, exec_sharedAccess (.write v) hr ha, rfl, fun hwf => ⟨?_, fun b hb => ?_⟩⟩⟩
    · rw [exec_sharedAccess .read hr ha, State.sharedAccess, State.readRam, ramAddress_of_host]
      rfl
    · have e := State.readRam_writeRam_same (a.toNat - 0x4000) v hwf
      rwa [State.readRam, ramAddress_of_host] at e
    · exact Ram.read_write_other (by rwa [ramAddress_of_host])
  case turn =>
    intro s r
    obtain ⟨before, hnodup, hbefore, e⟩ := s.untilTurn_before r 3
    exact ⟨before, hnodup, fun hmem => Nat.lt_irrefl _ (hbefore r hmem), congrArg (State.grant · r) e⟩
  case idle => exact fun s r ⟨he, hc, hw⟩ => State.serve_of_idle r he hc hw
  case served =>
    rintro s (hr | ⟨he, hc, hw⟩)
    · exact State.served_of_reset hr
    · exact State.served_of_idle he hc hw

end Sys2Proof.Machine
end

section
/-! The host port's registers: how a write to each is judged, the causes and the error latch, and the command register
(R158 to R164, R173). Each row is its bus cycle, and each register's owner is one case of `writeRegister`. -/

namespace Sys2Proof.Machine

open Sys2Proof.Safety

/-! ## Rows that write a register -/

/-- A bus cycle that writes to a register is the owner's judgement, whatever was granted before it (R164). -/
theorem exec_register {c : Instr} {a : HostAddress} {v : Word} (r : Register) {s : State}
    (hc : busCycle c = some (a, .write v)) (ha : registerAt a.toNat = some r)
    (hr : s.served.port.resetAsserted = false) : exec c s = .next (s.served.writeRegister r a v) := by
  rw [exec_of_busCycle hc, State.hostAccess_write v hr ha]

/-- The host error code of a judged write (R164). -/
theorem exec_judged {c : Instr} {a : HostAddress} {v : Word} {r : Register} {accepted : Bool} {e : HostError}
    {stored s : State} (hc : busCycle c = some (a, .write v)) (ha : registerAt a.toNat = some r)
    (hw : s.served.writeRegister r a v = s.served.judge accepted a e stored)
    (hr : s.served.port.resetAsserted = false) :
    (accepted = true → exec c s = .next stored) ∧ (accepted = false → exec c s = .next (s.served.hostError e a)) := by
  rw [exec_register r hc ha hr, hw]
  exact ⟨fun h => congrArg _ (State.judge_accepted h), fun h => congrArg _ (State.judge_refused h)⟩

/-- A register with a range stores a value inside it and refuses any other. -/
theorem exec_storedWithin {a : HostAddress} {v : Word} {r : Register} {low high : Nat} {e : HostError} {settings : Settings}
    {s : State} (ha : registerAt a.toNat = some r)
    (hw : s.served.writeRegister r a v = s.served.judge (inRange v low high) a e (s.served.store settings))
    (hr : s.served.port.resetAsserted = false) : storedWithin s s.served a v low high e settings := by
  obtain ⟨accepted, refused⟩ := exec_judged (c := .registerWrite a v) rfl ha hw hr
  exact ⟨fun h => accepted (inRange_true h), fun h => refused (inRange_false h)⟩

/-- Settles O10: each register is `exec_storedWithin` at its address. -/
theorem rangedRegistersStoreOrRefuse : Obligations.RangedRegistersStoreOrRefuse := by
  rintro v s₀ s rfl hr
  exact ⟨exec_storedWithin (r := .planABase) rfl rfl hr, exec_storedWithin (r := .planBBase) rfl rfl hr,
    exec_storedWithin (r := .demandRetries) rfl rfl hr, exec_storedWithin (r := .occupancyGuard) rfl rfl hr,
    exec_storedWithin (r := .pointSelect) rfl rfl hr, exec_storedWithin (r := .stationSelect) rfl rfl hr,
    exec_storedWithin (r := .suspectAfter) rfl rfl hr, exec_storedWithin (r := .absentAfter) rfl rfl hr,
    exec_storedWithin (r := .confirmCount) rfl rfl hr, exec_storedWithin (r := .probeInterval) rfl rfl hr,
    exec_storedWithin (r := .trainingTimeout) rfl rfl hr, exec_storedWithin (r := .trunkFaultLimit) rfl rfl hr⟩

/-- The point records fit the RAM. -/
theorem pointsFit_iff {base count : Nat} : pointsFit base count = true ↔ base + 8 * count ≤ 16384 :=
  decide_eq_true_iff

/-- The bits of EVENT ENABLE that are kept: a kind that has an enable (R152). -/
theorem enableMask_getLsbD {i : Nat} (h : i < 16) :
    enableMask.getLsbD i = (decide (1 ≤ i ∧ i ≤ 12) || decide (i = 15)) := by
  revert i
  decide

/-- Settles O12: the point registers, RING WATERMARK and EVENT ENABLE are judged, CMD ARG 0 to 3 are stored. -/
theorem otherRegistersStoreOrRefuse : Obligations.OtherRegistersStoreOrRefuse := by
  rintro v s₀ s rfl hr
  obtain ⟨baseIn, baseOut⟩ := exec_judged (c := .registerWrite 0x0033 v) (r := .pointBase) rfl rfl rfl hr
  obtain ⟨countIn, countOut⟩ := exec_judged (c := .registerWrite 0x0034 v) (r := .pointCount) rfl rfl rfl hr
  obtain ⟨markIn, markOut⟩ := exec_judged (c := .registerWrite 0x0076 v) (r := .ringWatermark) rfl rfl rfl hr
  refine ⟨fun h => baseIn (pointsFit_iff.mpr h), fun h => baseOut ?_, fun h => countIn ?_, fun h => countOut ?_,
    exec_register (.cmdArg 0) rfl rfl hr, exec_register (.cmdArg 1) rfl rfl hr, exec_register (.cmdArg 2) rfl rfl hr,
    exec_register (.cmdArg 3) rfl rfl hr, fun h => markIn (inRange_true h), fun h => markOut (inRange_false ?_),
    _, exec_register .eventEnable rfl rfl hr, rfl, fun i hi => ?_⟩
  · exact Bool.eq_false_iff.mpr fun hfit => absurd (pointsFit_iff.mp hfit) (by omega)
  · obtain ⟨low, high, fits⟩ := h
    exact Bool.and_eq_true_iff.mpr ⟨inRange_true ⟨low, high⟩, pointsFit_iff.mpr fits⟩
  · refine Bool.eq_false_iff.mpr fun hfit => h ?_
    obtain ⟨range, fits⟩ := Bool.and_eq_true_iff.mp hfit
    simp only [inRange, Bool.and_eq_true, decide_eq_true_eq] at range
    exact ⟨range.1, range.2, pointsFit_iff.mp fits⟩
  · unfold Ring.entries
    omega
  · exact (BitVec.getLsbD_and ..).trans (congrArg (v.getLsbD i && ·) (enableMask_getLsbD hi))

/-! ## The causes and the error latch -/

/-- Settles O7: the latch's two cases, and the write that empties it. -/
theorem firstHostErrorIsLatchedUntilCleared : Obligations.FirstHostErrorIsLatchedUntilCleared := by
  refine ⟨fun s code a => ⟨fun h => ?_, fun h => ?_⟩, ?_⟩
  · simp [State.hostError, HostPort.latch, h, HostPort.raise, causeHostError]
  · simp [State.hostError, HostPort.latch, h]
  · rintro v s₀ s rfl hr
    exact exec_register .hostError rfl rfl hr

/-- A word of causes is not 0 exactly where one of its five bits is set. -/
theorem BitVec.ne_zero_iff_getLsbD {w : Nat} (x : BitVec w) : x ≠ 0 ↔ ∃ i < w, x.getLsbD i = true := by
  constructor
  · intro h
    by_contra hall
    refine h (BitVec.eq_of_getLsbD_eq fun i hi => ?_)
    simpa using fun hbit => hall ⟨i, hi, hbit⟩
  · rintro ⟨i, -, hi⟩ rfl
    simp at hi

/-- Settles O8: both registers are read off their owners bit by bit, and INT off `intLow`. -/
theorem causesClearAndIntFollows : Obligations.CausesClearAndIntFollows := by
  refine ⟨?clear, ?enable, fun s hr => ?int⟩
  case clear =>
    rintro v s₀ s rfl hr
    refine ⟨_, exec_register .irqCause rfl rfl hr, rfl, fun i hi => ?_⟩
    simp [State.writeRegister, State.clearCauses, HostPort.clearCauses, hi]
  case enable =>
    rintro v s₀ s rfl hr
    refine ⟨_, exec_register .irqEnable rfl rfl hr, rfl, fun i hi => ?_⟩
    simp [State.writeRegister, hi]
  case int =>
    simp only [HostPort.intLow, hr, Bool.not_false, Bool.true_and, bne_iff_ne, BitVec.ne_zero_iff_getLsbD,
      BitVec.getLsbD_and, Bool.and_eq_true]

/-- Settles O14: every register of the list is read-only. -/
theorem readOnlyWriteIsIgnored : Obligations.ReadOnlyWriteIsIgnored := by
  rintro a v s₀ s r rfl hr ha hmem
  exact exec_readOnlyWrite v hr ha ((List.all_eq_true (p := Register.readOnly)).mp rfl r hmem)

/-! ## COMMAND -/

/-- A write to COMMAND while BUSY is not taken (R173). -/
theorem State.writeCommand_busy {s : State} (code : Word) (hr : s.port.resetAsserted = false) (hh : s.cmd.held ≠ none) :
    s.writeCommand code = s.hostError .commandOverrun 0x0004 := by
  rw [State.writeCommand, State.takeCommand, if_neg (by simp [hr]), if_pos (Option.isSome_iff_ne_none.mpr hh)]
  rfl

/-- A command row on a READY unit is its owner's act on the command just taken (R172, R173). -/
theorem exec_command {c : Instr} {code : Word} {s : State} (hc : commandCode c = some code) (h : Ready s.served) :
    exec c s = .next ((taken s.served code).act code) := by
  rw [exec_of_commandCode hc]
  exact congrArg _ (State.takeCommand_ready _ _ h.1 h.2)

/-- A code that names no command completes with BAD OPERAND (R173). -/
theorem State.act_undefined (s : State) {code : Word}
    (h : code ∉ ([0x01, 0x02, 0x03, 0x04, 0x05, 0x06, 0x07, 0x10, 0x11, 0x20, 0x21, 0x30, 0x31, 0x32, 0x40, 0x41, 0x50,
      0x51] : List Word)) : s.act code = s.complete .badOperand 0 := by
  have hne : ∀ w ∈ ([0x01, 0x02, 0x03, 0x04, 0x05, 0x06, 0x07, 0x10, 0x11, 0x20, 0x21, 0x30, 0x31, 0x32, 0x40, 0x41,
      0x50, 0x51] : List Word), code.toNat ≠ w.toNat := fun w hw e => h (BitVec.eq_of_toNat_eq e ▸ hw)
  simp only [List.forall_mem_cons] at hne
  unfold State.act
  split <;> simp_all

/-- Settles O16: a code without a command by `act_undefined`, and BUSY is judged before the code. -/
theorem commandRegisterJudgesTheWrite : Obligations.CommandRegisterJudgesTheWrite := by
  refine ⟨?undefined, ?overrun⟩
  case undefined =>
    rintro code s₀ s rfl hready hcode
    have hw := exec_register (c := .undefinedCommand code) .command rfl rfl hready.1
    rw [hw, State.writeRegister, State.writeCommand, State.takeCommand_ready _ _ hready.1 hready.2,
      State.act_undefined _ hcode]
    rfl
  case overrun =>
    rintro code s₀ s rfl hr hh
    have hcommand : ∀ c code', commandCode c = some code' →
        exec c s₀ = .next (s₀.served.hostError .commandOverrun 0x0004) := fun c code' hc => by
      rw [exec_of_commandCode hc, State.writeCommand_busy _ hr hh]
    have hundefined : exec (.undefinedCommand code) s₀ = .next (s₀.served.hostError .commandOverrun 0x0004) :=
      (exec_register .command rfl rfl hr).trans (congrArg _ (State.writeCommand_busy _ hr hh))
    have hcancel : exec .switchPlanCancel s₀ = .next (s₀.served.hostError .commandOverrun 0x0004) :=
      congrArg _ ((if_neg (by rw [hr]; decide)).trans (if_pos (Option.isSome_iff_ne_none.mpr hh)))
    refine ⟨hundefined, ?_⟩
    simp only [List.forall_mem_cons]
    exact ⟨hcommand _ _ rfl, hcommand _ _ rfl, hcommand _ _ rfl, hcommand _ _ rfl, hcommand _ _ rfl, hcommand _ _ rfl,
      hcommand _ _ rfl, hcommand _ _ rfl, hcancel, hcommand _ _ rfl, hcommand _ _ rfl, hcommand _ _ rfl, hcommand _ _ rfl,
      hcommand _ _ rfl, hcommand _ _ rfl, hcommand _ _ rfl, hcommand _ _ rfl, hcommand _ _ rfl, hcommand _ _ rfl,
      hundefined, nofun⟩

/-! ## Locked configuration -/

/-- The 8 bit times of the gap and of quiet at each rate (R143). -/
theorem State.gapTime_of_rate {s : State} {v : Word} (h : s.set.trunkRate = v) (hv : v.toNat ≤ 2) :
    s.gapTime = if v = 0 then 16 else if v = 1 then 8 else 4 := by
  obtain rfl | rfl | rfl : v = 0 ∨ v = 1 ∨ v = 2 := by bv_omega
  all_goals simp [State.gapTime, State.bitTimes, State.halfMicros, h, Config.gapBits]

/-- What a row but PIN_RESET leaves of the expected identity of a station in service (R80). -/
def IdentityStays (n : Nat) (identity : Word) (s : State) : Prop :=
  (s.station n).state ≠ .off ∧ (s.station n).expectedIdentity = identity

end Sys2Proof.Machine
end

section
/-! What moves neither the time-tag holding register (R167) nor a station's expected identity (R80): every shared
operation, for `simp`, where its frame says nothing of the port or of the stations. -/

namespace Sys2Proof.Machine

open Sys2Proof.Safety

/-- What a map makes of a vector does not see an entry replaced by one that it takes alike. -/
theorem map_set_of_eq {α β : Type} {k : Nat} (f : α → β) (v : Vector α k) {i : Nat} (hi : i < k) {r : α}
    (h : f r = f v[i]) : (v.set i r hi).map f = v.map f := by
  rw [Vector.map_set, h, ← Vector.getElem_map f, Vector.set_getElem_self]

/-- The expected identities of all stations. -/
def identitiesOf (v : Vector Station 62) : Vector Word 62 := v.map Station.expectedIdentity

/-- A record replaced by one with the identity it had. -/
@[simp] theorem identitiesOf_setStation (s : State) (n : Nat) (r : Station)
    (h : r.expectedIdentity = (s.station n).expectedIdentity) :
    identitiesOf (s.setStation n r).stations = identitiesOf s.stations := by
  by_cases hn : isStation n
  · rw [State.setStation_of s r hn]
    rw [State.station_of s hn] at h
    exact map_set_of_eq Station.expectedIdentity s.stations hn.2 h
  · rw [State.setStation_none s r hn]

/-- One of the identities. -/
theorem identitiesOf_getElem (v : Vector Station 62) {i : Nat} (hi : i < 62) :
    (identitiesOf v)[i] = v[i].expectedIdentity := Vector.getElem_map ..

/-- One station's identity among those of all. -/
theorem State.identity_of_identitiesOf {s u : State} (h : identitiesOf u.stations = identitiesOf s.stations) (n : Nat) :
    (u.station n).expectedIdentity = (s.station n).expectedIdentity := by
  by_cases hn : isStation n
  · rw [State.station_of _ hn, State.station_of _ hn]
    have e := congrArg (fun v => v[n - 1]'hn.2) h
    exact (identitiesOf_getElem _ hn.2).symm.trans (e.trans (identitiesOf_getElem _ hn.2))
  · rw [State.station_none _ hn, State.station_none _ hn]

/-- Records changed one by one, each with the identity it had. -/
theorem identitiesOf_map (v : Vector Station 62) {f : Station → Station}
    (h : ∀ r, (f r).expectedIdentity = r.expectedIdentity) : identitiesOf (v.map f) = identitiesOf v := by
  rw [identitiesOf, Vector.map_map, show Station.expectedIdentity ∘ f = Station.expectedIdentity from funext h]
  rfl

/-- A record replaced, after what leaves the table alone, by one with the identity it had. -/
theorem identitiesOf_setStation_congr {s u : State} {n : Nat} {r : Station} (hu : u.stations = s.stations)
    (h : r.expectedIdentity = (s.station n).expectedIdentity) :
    identitiesOf (u.setStation n r).stations = identitiesOf s.stations := by
  rw [identitiesOf_setStation u n r (by rw [State.station_congr hu, h]), hu]

/-! ## One record -/

/-- `enabled` keeps the identity. -/
@[simp] theorem Station.enabled_identity (r : Station) (t : TrunkId) :
    (r.enabled t).expectedIdentity = r.expectedIdentity := by
  unfold Station.enabled
  simp

/-- `disabled` keeps the identity. -/
@[simp] theorem Station.disabled_identity (r : Station) :
    r.disabled.expectedIdentity = r.expectedIdentity := by
  unfold Station.disabled
  simp

/-- `engineReset` keeps the identity. -/
@[simp] theorem Station.engineReset_identity (r : Station) :
    r.engineReset.expectedIdentity = r.expectedIdentity := by
  unfold Station.engineReset
  repeat' split
  all_goals simp

/-- `failed` keeps the identity. -/
@[simp] theorem Station.failed_identity (r : Station) (a b : Nat) :
    (r.failed a b).expectedIdentity = r.expectedIdentity := by
  unfold Station.failed
  repeat' (first | split | (dsimp only; split))
  all_goals simp

/-- `delivered` keeps the identity. -/
@[simp] theorem Station.delivered_identity (r : Station) (o : OutcomeCode) (t : TrunkId) :
    (r.delivered o t).expectedIdentity = r.expectedIdentity := by
  unfold Station.delivered
  repeat' split
  all_goals simp

/-- `afterPoint` keeps the identity. -/
@[simp] theorem Station.afterPoint_identity (r : Station) (o : OutcomeCode) (a b : Nat) :
    (r.afterPoint o a b).expectedIdentity = r.expectedIdentity := by
  unfold Station.afterPoint
  repeat' split
  all_goals simp

/-- `confirmed` keeps the identity. -/
@[simp] theorem Station.confirmed_identity (r : Station) (w : Word) (b : Bool) (n : Nat) :
    (r.confirmed w b n).expectedIdentity = r.expectedIdentity := by
  unfold Station.confirmed
  repeat' (first | split | (dsimp only; split))
  all_goals simp

/-- `mismatched` keeps the identity. -/
@[simp] theorem Station.mismatched_identity (r : Station) (w : Word) (n : Nat) :
    (r.mismatched w n).expectedIdentity = r.expectedIdentity := by
  unfold Station.mismatched
  repeat' split
  all_goals simp

/-- `probeFailed` keeps the identity. -/
@[simp] theorem Station.probeFailed_identity (r : Station) :
    r.probeFailed.expectedIdentity = r.expectedIdentity := by
  unfold Station.probeFailed
  repeat' split
  all_goals simp

/-- `aged` keeps the identity. -/
@[simp] theorem Station.aged_identity (r : Station) :
    r.aged.expectedIdentity = r.expectedIdentity := by
  unfold Station.aged
  repeat' split
  all_goals simp

/-- `probed` keeps the identity. -/
@[simp] theorem Station.probed_identity (r : Station) (n : Nat) :
    (r.probed n).expectedIdentity = r.expectedIdentity := by
  unfold Station.probed
  repeat' split
  all_goals simp

/-! ## The operations -/

/-- `raise` moves not the holding register. -/
@[simp] theorem State.raise_timeHold (s : State) (c : BitVec 5) :
    (s.raise c).port.timeHold = s.port.timeHold := by
  simp [State.raise]

/-- `hostError` moves not the holding register. -/
@[simp] theorem State.hostError_timeHold (s : State) (c : HostError) (a : HostAddress) :
    (s.hostError c a).port.timeHold = s.port.timeHold := by
  simp [State.hostError]

/-- `complete` moves not the holding register. -/
@[simp] theorem State.complete_timeHold (s : State) (r : ResultCode) (d : Word) :
    (s.complete r d).port.timeHold = s.port.timeHold := by
  simp [State.complete]

/-- `trainEffect` moves not the holding register. -/
@[simp] theorem State.trainEffect_timeHold (s : State) (t : TrunkId) :
    (s.trainEffect t).port.timeHold = s.port.timeHold := by
  unfold State.trainEffect
  repeat' (first | split | (dsimp only; split))
  all_goals simp

/-- `offEffect` moves not the holding register. -/
@[simp] theorem State.offEffect_timeHold (s : State) (t : TrunkId) :
    (s.offEffect t).port.timeHold = s.port.timeHold := by
  unfold State.offEffect
  repeat' (first | split | (dsimp only; split))
  all_goals simp

/-- `trunkEffect` moves not the holding register. -/
@[simp] theorem State.trunkEffect_timeHold (s : State) (c : TrunkCommand) (t : TrunkId) :
    (s.trunkEffect c t).port.timeHold = s.port.timeHold := by
  unfold State.trunkEffect
  split <;> simp

/-- `trunkCommand` moves not the holding register. -/
@[simp] theorem State.trunkCommand_timeHold (s : State) (c : TrunkCommand) :
    (s.trunkCommand c).port.timeHold = s.port.timeHold := by
  unfold State.trunkCommand
  repeat' split
  all_goals simp

/-- `releaseHeldTrunk` moves not the holding register. -/
@[simp] theorem State.releaseHeldTrunk_timeHold (s : State) (t : TrunkId) :
    (s.releaseHeldTrunk t).port.timeHold = s.port.timeHold := by
  unfold State.releaseHeldTrunk
  repeat' split
  all_goals simp

/-- `stationEnable` moves neither the holding register nor an expected identity. -/
@[simp] theorem State.stationEnable_holds (s : State) :
    s.stationEnable.port.timeHold = s.port.timeHold ∧
      identitiesOf s.stationEnable.stations = identitiesOf s.stations := by
  unfold State.stationEnable
  repeat' (first | split | (dsimp only; split))
  all_goals simp

/-- `stationDisable` moves neither the holding register nor an expected identity. -/
@[simp] theorem State.stationDisable_holds (s : State) :
    s.stationDisable.port.timeHold = s.port.timeHold ∧
      identitiesOf s.stationDisable.stations = identitiesOf s.stations := by
  unfold State.stationDisable
  repeat' (first | split | (dsimp only; split))
  all_goals simp

/-- `pointHealth` moves no expected identity. -/
@[simp] theorem State.pointHealth_identities (s : State) (x : Transfer) (o : OutcomeCode) :
    identitiesOf (s.pointHealth x o).stations = identitiesOf s.stations := by
  simp [State.pointHealth]

/-- `probeHealth` moves no expected identity. -/
@[simp] theorem State.probeHealth_identities (s : State) (x : Transfer) (o : OutcomeCode) :
    identitiesOf (s.probeHealth x o).stations = identitiesOf s.stations := by
  unfold State.probeHealth
  repeat' (first | split | (dsimp only; split))
  all_goals simp

/-- `stationReport` moves no expected identity. -/
@[simp] theorem State.stationReport_identities (s : State) (x : Transfer) (o : OutcomeCode) :
    identitiesOf (s.stationReport x o).stations = identitiesOf s.stations := by
  unfold State.stationReport
  repeat' split
  all_goals simp

/-- `conditionReport` moves no expected identity. -/
@[simp] theorem State.conditionReport_identities (s : State) (x : Transfer) (o : OutcomeCode) (c : BitVec 8) :
    identitiesOf (s.conditionReport x o c).stations = identitiesOf s.stations := by
  unfold State.conditionReport
  repeat' (first | split | (dsimp only; split))
  · rfl
  all_goals exact identitiesOf_setStation_congr (by simp) rfl

/-- `ageStations` moves no expected identity. -/
@[simp] theorem State.ageStations_identities (s : State) :
    identitiesOf s.ageStations.stations = identitiesOf s.stations := identitiesOf_map _ Station.aged_identity
/-- `pointCommand` moves not the holding register. -/
@[simp] theorem State.pointCommand_timeHold (s : State) (c : PointCommand) :
    (s.pointCommand c).port.timeHold = s.port.timeHold := by
  unfold State.pointCommand
  repeat' split
  all_goals simp

/-- `hold` moves not the holding register. -/
@[simp] theorem State.hold_timeHold (s : State) (p : BitVec 8) :
    (s.hold p).port.timeHold = s.port.timeHold := by
  simp [State.hold]

/-- `release` moves not the holding register. -/
@[simp] theorem State.release_timeHold (s : State) (p : BitVec 8) (n : Nat) (b : Bool) :
    (s.release p n b).port.timeHold = s.port.timeHold := by
  unfold State.release
  repeat' (first | split | (dsimp only; split))
  all_goals simp

/-- `commit` moves not the holding register. -/
@[simp] theorem State.commit_timeHold (s : State) (p : BitVec 8) :
    (s.commit p).port.timeHold = s.port.timeHold := by
  unfold State.commit
  repeat' (first | split | (dsimp only; split))
  all_goals simp

/-- `pointChecked` moves not the holding register. -/
@[simp] theorem State.pointChecked_timeHold (s : State) (c : PointCommand) (p : BitVec 8) :
    (s.pointChecked c p).port.timeHold = s.port.timeHold := by
  unfold State.pointChecked
  repeat' (first | split | (dsimp only; split))
  all_goals simp

/-- `pointReadDone` moves not the holding register. -/
@[simp] theorem State.pointReadDone_timeHold (s : State) (c : PointCommand) (p : BitVec 8) :
    (s.pointReadDone c p).port.timeHold = s.port.timeHold := by
  simp [State.pointReadDone]

/-- `demandPost` moves not the holding register. -/
@[simp] theorem State.demandPost_timeHold (s : State) :
    s.demandPost.port.timeHold = s.port.timeHold := by
  unfold State.demandPost
  repeat' (first | split | (dsimp only; split))
  all_goals simp

/-- `judgePost` moves not the holding register. -/
@[simp] theorem State.judgePost_timeHold (s : State) (p : BitVec 8) (h : Bool) (d : Nat) (t : BitVec 8) (n : Nat) :
    (s.judgePost p h d t n).port.timeHold = s.port.timeHold := by
  unfold State.judgePost
  repeat' split
  all_goals simp

/-- `postChecked` moves not the holding register. -/
@[simp] theorem State.postChecked_timeHold (s : State) (p : BitVec 8) (h : Bool) (d : Nat) (t : BitVec 8) :
    (s.postChecked p h d t).port.timeHold = s.port.timeHold := by
  unfold State.postChecked
  split <;> simp

/-- `postCheckDone` moves not the holding register. -/
@[simp] theorem State.postCheckDone_timeHold (s : State) (p : BitVec 8) (h : Bool) (d : Nat) (t : BitVec 8) :
    (s.postCheckDone p h d t).port.timeHold = s.port.timeHold := by
  simp [State.postCheckDone]

/-- `demandCancel` moves not the holding register. -/
@[simp] theorem State.demandCancel_timeHold (s : State) :
    s.demandCancel.port.timeHold = s.port.timeHold := by
  unfold State.demandCancel
  repeat' split
  all_goals simp

/-- `cancelSwitch` moves not the holding register. -/
@[simp] theorem State.cancelSwitch_timeHold (s : State) :
    s.cancelSwitch.port.timeHold = s.port.timeHold := by
  unfold State.cancelSwitch
  split <;> simp

/-- `switchPlan` moves not the holding register. -/
@[simp] theorem State.switchPlan_timeHold (s : State) :
    s.switchPlan.port.timeHold = s.port.timeHold := by
  unfold State.switchPlan
  repeat' split
  all_goals simp

/-- `validatePlan` moves not the holding register. -/
@[simp] theorem State.validatePlan_timeHold (s : State) :
    s.validatePlan.port.timeHold = s.port.timeHold := by
  unfold State.validatePlan
  split <;> simp

/-- `switchTo` moves not the holding register. -/
@[simp] theorem State.switchTo_timeHold (s : State) (g : Geometry) :
    (s.switchTo g).port.timeHold = s.port.timeHold := by
  unfold State.switchTo
  split <;> simp

/-- `validated` moves not the holding register. -/
@[simp] theorem State.validated_timeHold (s : State) (f : Bool) (bank : Bank) (n : Nat) :
    (s.validated f bank n).port.timeHold = s.port.timeHold := by
  unfold State.validated
  repeat' split
  all_goals simp

/-- `validationDone` moves not the holding register. -/
@[simp] theorem State.validationDone_timeHold (s : State) (f : Bool) (bank : Bank) (n : Nat) :
    (s.validationDone f bank n).port.timeHold = s.port.timeHold := by
  simp [State.validationDone]

/-- `stopEngine` moves not the holding register. -/
@[simp] theorem State.stopEngine_timeHold (s : State) (e : EngineState) (h : HaltCause) (c : Nat) :
    (s.stopEngine e h c).port.timeHold = s.port.timeHold := by
  simp [State.stopEngine]

/-- `beginRound` moves no expected identity. -/
@[simp] theorem State.beginRound_identities (s : State) (r : Nat) :
    identitiesOf (s.beginRound r).stations = identitiesOf s.stations := by
  unfold State.beginRound
  repeat' (first | split | (dsimp only; split))
  all_goals simp

/-- `beginSweep` moves no expected identity. -/
@[simp] theorem State.beginSweep_identities (s : State) :
    identitiesOf s.beginSweep.stations = identitiesOf s.stations := by
  simp [State.beginSweep]

/-- `sweepBoundary` moves neither the holding register nor an expected identity. -/
@[simp] theorem State.sweepBoundary_holds (s : State) :
    s.sweepBoundary.port.timeHold = s.port.timeHold ∧
      identitiesOf s.sweepBoundary.stations = identitiesOf s.stations := by
  unfold State.sweepBoundary
  split <;> simp

/-- `endRound` moves neither the holding register nor an expected identity. -/
@[simp] theorem State.endRound_holds (s : State) :
    s.endRound.port.timeHold = s.port.timeHold ∧
      identitiesOf s.endRound.stations = identitiesOf s.stations := by
  unfold State.endRound
  repeat' split
  all_goals simp

/-- `afterSlot` moves neither the holding register nor an expected identity. -/
@[simp] theorem State.afterSlot_holds (s : State) :
    s.afterSlot.port.timeHold = s.port.timeHold ∧
      identitiesOf s.afterSlot.stations = identitiesOf s.stations := by
  unfold State.afterSlot
  repeat' split
  all_goals simp

/-- `endSlot` moves neither the holding register nor an expected identity. -/
@[simp] theorem State.endSlot_holds (s : State) :
    s.endSlot.port.timeHold = s.port.timeHold ∧
      identitiesOf s.endSlot.stations = identitiesOf s.stations := by
  simp [State.endSlot]

/-- `overrun` moves neither the holding register nor an expected identity. -/
@[simp] theorem State.overrun_holds (s : State) :
    s.overrun.port.timeHold = s.port.timeHold ∧
      identitiesOf s.overrun.stations = identitiesOf s.stations := by
  unfold State.overrun
  repeat' split
  all_goals simp

/-- `timerExpired` moves neither the holding register nor an expected identity. -/
@[simp] theorem State.timerExpired_holds (s : State) :
    s.timerExpired.port.timeHold = s.port.timeHold ∧
      identitiesOf s.timerExpired.stations = identitiesOf s.stations := by
  unfold State.timerExpired
  split <;> simp

/-- `handOverProbe` moves no expected identity. -/
@[simp] theorem State.handOverProbe_identities (s : State) (p : BitVec 8) (r : PointRecord) (n : Nat) (q : RetryPolicy) :
    identitiesOf (s.handOverProbe p r n q).stations = identitiesOf s.stations := by
  have h := identitiesOf_setStation_congr (u := s.enterTransfer) (by simp)
    (Station.probed_identity (s.station r.station) s.set.probeInterval.toNat)
  simpa [State.handOverProbe] using h

/-- `transferReports` moves no expected identity. -/
@[simp] theorem State.transferReports_identities (s : State) (x : Transfer) (o : OutcomeCode) :
    identitiesOf (s.transferReports x o).stations = identitiesOf s.stations := by
  simp [State.transferReports]

/-- `endTransfer` moves neither the holding register nor an expected identity. -/
@[simp] theorem State.endTransfer_holds (s : State) (x : Transfer) (o : OutcomeCode) :
    (s.endTransfer x o).port.timeHold = s.port.timeHold ∧
      identitiesOf (s.endTransfer x o).stations = identitiesOf s.stations := by
  unfold State.endTransfer
  split <;> simp

/-- `retryOrEnd` moves neither the holding register nor an expected identity. -/
@[simp] theorem State.retryOrEnd_holds (s : State) (x : Transfer) (o : OutcomeCode) :
    (s.retryOrEnd x o).port.timeHold = s.port.timeHold ∧
      identitiesOf (s.retryOrEnd x o).stations = identitiesOf s.stations := by
  unfold State.retryOrEnd
  repeat' split
  all_goals simp

/-- `turnOrEnd` moves neither the holding register nor an expected identity. -/
@[simp] theorem State.turnOrEnd_holds (s : State) (x : Transfer) (o : OutcomeCode) :
    (s.turnOrEnd x o).port.timeHold = s.port.timeHold ∧
      identitiesOf (s.turnOrEnd x o).stations = identitiesOf s.stations := by
  unfold State.turnOrEnd
  split <;> simp

/-- `afterAttempt` moves neither the holding register nor an expected identity. -/
@[simp] theorem State.afterAttempt_holds (s : State) (x : Transfer) (o : OutcomeCode) :
    (s.afterAttempt x o).port.timeHold = s.port.timeHold ∧
      identitiesOf (s.afterAttempt x o).stations = identitiesOf s.stations := by
  unfold State.afterAttempt
  split <;> simp

/-- `attemptReports` moves no expected identity. -/
@[simp] theorem State.attemptReports_identities (s : State) (x : Transfer) (o : OutcomeCode) (c : Option (BitVec 8)) :
    identitiesOf (s.attemptReports x o c).stations = identitiesOf s.stations := by
  unfold State.attemptReports
  split <;> simp

/-- `endAttempt` moves neither the holding register nor an expected identity. -/
@[simp] theorem State.endAttempt_holds (s : State) (x : Transfer) (o : OutcomeCode) (c : Option (BitVec 8)) :
    (s.endAttempt x o c).port.timeHold = s.port.timeHold ∧
      identitiesOf (s.endAttempt x o c).stations = identitiesOf s.stations := by
  simp [State.endAttempt]

/-- `echoEnd` moves neither the holding register nor an expected identity. -/
@[simp] theorem State.echoEnd_holds (s : State) (x : Transfer) (u v : Word) (l : List Word) (e : Echo) :
    (s.echoEnd x u v l e).port.timeHold = s.port.timeHold ∧
      identitiesOf (s.echoEnd x u v l e).stations = identitiesOf s.stations := by
  unfold State.echoEnd
  repeat' split
  all_goals simp

/-- `answerEnd` moves neither the holding register nor an expected identity. -/
@[simp] theorem State.answerEnd_holds (s : State) (x : Transfer) (f : AnswerFrame) :
    (s.answerEnd x f).port.timeHold = s.port.timeHold ∧
      identitiesOf (s.answerEnd x f).stations = identitiesOf s.stations := by
  simp [State.answerEnd]

/-- `planFault` moves neither the holding register nor an expected identity. -/
@[simp] theorem State.planFault_holds (s : State) (e : CheckFailure) :
    (s.planFault e).port.timeHold = s.port.timeHold ∧
      identitiesOf (s.planFault e).stations = identitiesOf s.stations := by
  simp [State.planFault]

/-- `transferSlot` moves neither the holding register nor an expected identity. -/
@[simp] theorem State.transferSlot_holds (s : State) (p : BitVec 8) (r : PointRecord) (n : Nat) (q : RetryPolicy) :
    (s.transferSlot p r n q).port.timeHold = s.port.timeHold ∧
      identitiesOf (s.transferSlot p r n q).stations = identitiesOf s.stations := by
  unfold State.transferSlot State.needTrunk
  repeat' split
  all_goals simp

/-- `takeDemand` moves neither the holding register nor an expected identity. -/
@[simp] theorem State.takeDemand_holds (s : State) :
    s.takeDemand.port.timeHold = s.port.timeHold ∧
      identitiesOf s.takeDemand.stations = identitiesOf s.stations := by
  unfold State.takeDemand
  split <;> simp

/-- `openSlot` moves neither the holding register nor an expected identity. -/
@[simp] theorem State.openSlot_holds (s : State) :
    s.openSlot.port.timeHold = s.port.timeHold ∧
      identitiesOf s.openSlot.stations = identitiesOf s.stations := by
  unfold State.openSlot State.needTrunk
  repeat' split
  all_goals simp

/-- `slotWork` moves neither the holding register nor an expected identity. -/
@[simp] theorem State.slotWork_holds (s : State) (b : SlotStart) (n : Nat) :
    (s.slotWork b n).port.timeHold = s.port.timeHold ∧
      identitiesOf (s.slotWork b n).stations = identitiesOf s.stations := by
  unfold State.slotWork State.needTrunk
  repeat' split
  all_goals simp

/-- `slotChecked` moves neither the holding register nor an expected identity. -/
@[simp] theorem State.slotChecked_holds (s : State) (n : Nat) :
    (s.slotChecked n).port.timeHold = s.port.timeHold ∧
      identitiesOf (s.slotChecked n).stations = identitiesOf s.stations := by
  unfold State.slotChecked
  repeat' split
  all_goals simp

/-- `slotReadDone` moves neither the holding register nor an expected identity. -/
@[simp] theorem State.slotReadDone_holds (s : State) (n : Nat) :
    (s.slotReadDone n).port.timeHold = s.port.timeHold ∧
      identitiesOf (s.slotReadDone n).stations = identitiesOf s.stations := by
  simp [State.slotReadDone]

/-- `failDemand` moves neither the holding register nor an expected identity. -/
@[simp] theorem State.failDemand_holds (s : State) (d : Demand) (c : Nat) :
    (s.failDemand d c).port.timeHold = s.port.timeHold ∧
      identitiesOf (s.failDemand d c).stations = identitiesOf s.stations := by
  simp [State.failDemand]

/-- `needTrunkForDemand` moves neither the holding register nor an expected identity. -/
@[simp] theorem State.needTrunkForDemand_holds (s : State) (d : Demand) (r : PointRecord) (n : Nat) :
    (s.needTrunkForDemand d r n).port.timeHold = s.port.timeHold ∧
      identitiesOf (s.needTrunkForDemand d r n).stations = identitiesOf s.stations := by
  unfold State.needTrunkForDemand State.needTrunk
  repeat' split
  all_goals simp

/-- `demandChecked` moves neither the holding register nor an expected identity. -/
@[simp] theorem State.demandChecked_holds (s : State) (n : Nat) :
    (s.demandChecked n).port.timeHold = s.port.timeHold ∧
      identitiesOf (s.demandChecked n).stations = identitiesOf s.stations := by
  unfold State.demandChecked
  repeat' split
  all_goals simp

/-- `demandReadDone` moves neither the holding register nor an expected identity. -/
@[simp] theorem State.demandReadDone_holds (s : State) (n : Nat) :
    (s.demandReadDone n).port.timeHold = s.port.timeHold ∧
      identitiesOf (s.demandReadDone n).stations = identitiesOf s.stations := by
  simp [State.demandReadDone]

/-- `advanceRing` moves not the holding register. -/
@[simp] theorem State.advanceRing_timeHold (s : State) (l : List EventRecord) :
    (s.advanceRing l).port.timeHold = s.port.timeHold := by
  simp [State.advanceRing]

/-- `publish` moves not the holding register. -/
@[simp] theorem State.publish_timeHold (s : State) :
    s.publish.port.timeHold = s.port.timeHold := by
  unfold State.publish
  split <;> simp

/-- `writeReadIndex` moves not the holding register. -/
@[simp] theorem State.writeReadIndex_timeHold (s : State) (v : Word) :
    (s.writeReadIndex v).port.timeHold = s.port.timeHold := by
  unfold State.writeReadIndex
  repeat' (first | split | (dsimp only; split))
  all_goals simp

/-- `writeRingBase` moves not the holding register. -/
@[simp] theorem State.writeRingBase_timeHold (s : State) (v : Word) :
    (s.writeRingBase v).port.timeHold = s.port.timeHold := by
  unfold State.writeRingBase
  repeat' split
  all_goals simp

/-- `writeRingSize` moves not the holding register. -/
@[simp] theorem State.writeRingSize_timeHold (s : State) (v : Word) :
    (s.writeRingSize v).port.timeHold = s.port.timeHold := by
  unfold State.writeRingSize
  repeat' split
  all_goals simp

/-- `writeRingGeometry` moves not the holding register. -/
@[simp] theorem State.writeRingGeometry_timeHold (s : State) (r : RingRegister) (v : Word) :
    (s.writeRingGeometry r v).port.timeHold = s.port.timeHold := by
  unfold State.writeRingGeometry
  split <;> simp

/-- `refuseEngine` moves not the holding register. -/
@[simp] theorem State.refuseEngine_timeHold (s : State) :
    s.refuseEngine.port.timeHold = s.port.timeHold := by
  simp [State.refuseEngine]

/-- `refuseNoPlan` moves not the holding register. -/
@[simp] theorem State.refuseNoPlan_timeHold (s : State) :
    s.refuseNoPlan.port.timeHold = s.port.timeHold := by
  simp [State.refuseNoPlan]

/-- `start` moves neither the holding register nor an expected identity. -/
@[simp] theorem State.start_holds (s : State) :
    s.start.port.timeHold = s.port.timeHold ∧
      identitiesOf s.start.stations = identitiesOf s.stations := by
  unfold State.start
  repeat' split
  all_goals simp

/-- `stepRound` moves neither the holding register nor an expected identity. -/
@[simp] theorem State.stepRound_holds (s : State) :
    s.stepRound.port.timeHold = s.port.timeHold ∧
      identitiesOf s.stepRound.stations = identitiesOf s.stations := by
  unfold State.stepRound
  repeat' split
  all_goals simp

/-- `stopRound` moves not the holding register. -/
@[simp] theorem State.stopRound_timeHold (s : State) :
    s.stopRound.port.timeHold = s.port.timeHold := by
  unfold State.stopRound
  split <;> simp

/-- `stopSweep` moves not the holding register. -/
@[simp] theorem State.stopSweep_timeHold (s : State) :
    s.stopSweep.port.timeHold = s.port.timeHold := by
  unfold State.stopSweep
  split <;> simp

/-- `clearHalt` moves not the holding register. -/
@[simp] theorem State.clearHalt_timeHold (s : State) :
    s.clearHalt.port.timeHold = s.port.timeHold := by
  unfold State.clearHalt
  split <;> simp

/-- `abortSlot` moves no expected identity. -/
@[simp] theorem State.abortSlot_identities (s : State) :
    identitiesOf s.abortSlot.stations = identitiesOf s.stations := by
  unfold State.abortSlot
  repeat' split
  all_goals simp

/-- `abort` moves neither the holding register nor an expected identity. -/
@[simp] theorem State.abort_holds (s : State) :
    s.abort.port.timeHold = s.port.timeHold ∧
      identitiesOf s.abort.stations = identitiesOf s.stations := by
  unfold State.abort
  repeat' split
  all_goals simp

/-- `resetRunTime` moves neither the holding register nor an expected identity. -/
@[simp] theorem State.resetRunTime_holds (s : State) :
    s.resetRunTime.port.timeHold = s.port.timeHold ∧
      identitiesOf s.resetRunTime.stations = identitiesOf s.stations := by
  unfold State.resetRunTime
  split <;> simp [identitiesOf_map _ Station.engineReset_identity]

/-- `engineReset` moves neither the holding register nor an expected identity. -/
@[simp] theorem State.engineReset_holds (s : State) :
    s.engineReset.port.timeHold = s.port.timeHold ∧
      identitiesOf s.engineReset.stations = identitiesOf s.stations := by
  unfold State.engineReset
  split <;> simp

/-- `act` moves neither the holding register nor an expected identity. -/
@[simp] theorem State.act_holds (s : State) (c : Word) :
    (s.act c).port.timeHold = s.port.timeHold ∧
      identitiesOf (s.act c).stations = identitiesOf s.stations := by
  unfold State.act
  split <;> simp

/-- A command taken moves the holding register only if its owner does. -/
theorem State.takeCommand_timeHold (s : State) (code : Word) {act : State → State}
    (h : ∀ u : State, (act u).port.timeHold = u.port.timeHold) :
    (s.takeCommand code act).port.timeHold = s.port.timeHold := by
  obtain e | e | ⟨-, -, e⟩ := s.takeCommand_cases code act <;> rw [e]
  · simp
  · exact h _

/-- `writeCommand` moves neither the holding register nor an expected identity. -/
@[simp] theorem State.writeCommand_holds (s : State) (c : Word) :
    (s.writeCommand c).port.timeHold = s.port.timeHold ∧
      identitiesOf (s.writeCommand c).stations = identitiesOf s.stations := 
  ⟨State.takeCommand_timeHold s c (fun u => (u.act_holds c).1),
    State.takeCommand_field (fun u => identitiesOf u.stations) s c (fun u => u.act c) (fun _ _ => rfl)
      (fun _ _ => rfl) fun u => (u.act_holds c).2⟩

/-- `answerRead` moves not the holding register. -/
@[simp] theorem State.answerRead_timeHold (s : State) (w : Word) :
    (s.answerRead w).port.timeHold = s.port.timeHold := by
  simp [State.answerRead]

/-- `clearCauses` moves not the holding register. -/
@[simp] theorem State.clearCauses_timeHold (s : State) (v : Word) :
    (s.clearCauses v).port.timeHold = s.port.timeHold := rfl
/-- `clearHostError` moves not the holding register. -/
@[simp] theorem State.clearHostError_timeHold (s : State) :
    s.clearHostError.port.timeHold = s.port.timeHold := rfl
/-- `writeTrunkRate` moves not the holding register. -/
@[simp] theorem State.writeTrunkRate_timeHold (s : State) (a : HostAddress) (v : Word) :
    (s.writeTrunkRate a v).port.timeHold = s.port.timeHold := by
  unfold State.writeTrunkRate State.judge
  repeat' split
  all_goals simp

/-- `sharedAccess` moves not the holding register. -/
@[simp] theorem State.sharedAccess_timeHold (s : State) (n : Nat) (a : Access) :
    (s.sharedAccess n a).port.timeHold = s.port.timeHold := by
  unfold State.sharedAccess
  split <;> simp

/-- `unmappedAccess` moves not the holding register. -/
@[simp] theorem State.unmappedAccess_timeHold (s : State) (h : HostAddress) (a : Access) :
    (s.unmappedAccess h a).port.timeHold = s.port.timeHold := by
  unfold State.unmappedAccess
  split <;> simp

end Sys2Proof.Machine
end

section
/-! The time-tag holding register (R167) and the configuration under a state lock (R80, R143): what each access does, and
that the part's own events leave both alone. -/

namespace Sys2Proof.Machine

open Sys2Proof.Safety

/-! ## The part's own events -/

/-- The holding register and the expected identities are these. -/
def KeptAre (hold : Word) (identities : Vector Word 62) (s : State) : Prop :=
  s.port.timeHold = hold ∧ identitiesOf s.stations = identities

/-- What moves neither keeps both. -/
theorem KeptAre.of_eq {hold : Word} {identities : Vector Word 62} {s u : State} (h : KeptAre hold identities s)
    (ht : u.port.timeHold = s.port.timeHold) (hi : identitiesOf u.stations = identitiesOf s.stations) :
    KeptAre hold identities u := ⟨ht.trans h.1, hi.trans h.2⟩

/-- No event of the part but PIN_RESET moves the holding register or an expected identity. -/
theorem events_kept (hold : Word) (identities : Vector Word 62) :
    EventsLead (KeptAre hold identities) (KeptAre hold identities) where
  stays _ h := h
  resetRelease _ h := h
  quietComes _ _ h := h.of_eq (by simp) (by simp)
  validation _ _ _ _ h := h.of_eq (by simp) (by simp)
  pointRead _ _ _ h := h.of_eq (by simp) (by simp)
  postCheck _ _ _ _ _ h := h.of_eq (by simp) (by simp)
  roundTimer _ _ h _ := h.of_eq (by simp) (by simp)
  slotRead _ _ h _ := h.of_eq (by simp) (by simp)
  demandRead _ _ h _ := h.of_eq (by simp) (by simp)
  pause _ _ h _ := h.of_eq (by simp) (by simp)
  callStart _ _ _ _ h _ _ := h.of_eq (by simp) (by simp)
  attemptEnd _ _ _ _ _ h _ _ := h.of_eq (by simp) (by simp)
  echo _ _ _ _ _ _ _ _ h _ _ := h.of_eq (by simp) (by simp)
  sync _ _ _ h _ := h.of_eq (by simp) (by simp)
  lateAnswer _ _ _ h _ := h.of_eq (by simp) (by simp)
  answer _ _ _ _ _ h _ _ := h.of_eq (by simp) (by simp)
  burstDue _ _ _ _ h _ := h.of_eq (by simp) (by simp)
  burstStart _ _ _ h _ := h.of_eq (by simp) (by simp)
  burstEnd _ _ _ _ h _ := h.of_eq (by simp) (by simp)
  trainingTimer _ _ _ h _ := h.of_eq (by simp) (by simp)
  published _ h := h.of_eq (by simp) (by simp)
  activity _ _ _ h := h.of_eq (by simp) (by simp)

/-- The same, executed. -/
theorem exec_event_kept {c : Instr} {s t : State} (hh : isHostAccess c = false) (hp : c ≠ .pinReset)
    (e : exec c s = .next t) :
    t.port.timeHold = s.port.timeHold ∧ identitiesOf t.stations = identitiesOf s.stations :=
  (events_kept s.port.timeHold (identitiesOf s.stations)).exec (fun _ h => h.of_eq (by simp) (by simp)) hh hp ⟨rfl, rfl⟩ e

/-- Nor does a row that writes a code to COMMAND. -/
theorem exec_command_kept {c : Instr} {s t : State} (hc : (∃ code, commandCode c = some code) ∨ c = .switchPlanCancel)
    (e : exec c s = .next t) :
    t.port.timeHold = s.port.timeHold ∧ identitiesOf t.stations = identitiesOf s.stations := by
  obtain ⟨code, hc⟩ | rfl := hc
  · obtain rfl := Host.Outcome.next.inj ((exec_of_commandCode hc s).symm.trans e)
    simp
  · obtain rfl := Host.Outcome.next.inj e
    exact ⟨(State.takeCommand_timeHold _ _ (by simp)).trans (by simp),
      congrArg identitiesOf ((State.takeCommand_stations _ _ _ (by simp)).trans (by simp))⟩

/-! ## TIME LOW -/

/-- The configuration words leave the holding register alone. -/
@[simp] theorem State.writeStation_timeHold (s : State) (w : StationWord) (v : Word) :
    (s.writeStation w v).port.timeHold = s.port.timeHold := by
  unfold State.writeStation
  repeat' (first | split | (dsimp only; split))
  all_goals simp

/-- A write to a register leaves the holding register alone. -/
theorem State.writeRegister_timeHold (s : State) (r : Register) (a : HostAddress) (v : Word) :
    (s.writeRegister r a v).port.timeHold = s.port.timeHold := by
  unfold State.writeRegister State.judge
  split
  all_goals (try split)
  all_goals simp

/-- Only host address 14h decodes to TIME LOW (Table 11-1). -/
theorem registerAt_eq_timeLow {n : Nat} (h : registerAt n = some .timeLow) : n = 0x14 := by
  unfold registerAt at h
  split at h <;> cases h
  rfl

/-- No access but a read of TIME LOW moves the holding register. -/
theorem State.hostAccess_timeHold (s : State) {a : HostAddress} {x : Access} (h : a = 0x0014 → x ≠ .read) :
    (s.hostAccess a x).port.timeHold = s.port.timeHold := by
  unfold State.hostAccess
  split
  · rfl
  · split
    next r hr =>
      cases x with
      | write v => exact s.writeRegister_timeHold r a v
      | read =>
        have hne : r ≠ .timeLow := by
          rintro rfl
          exact h (BitVec.eq_of_toNat_eq (registerAt_eq_timeLow hr)) rfl
        unfold State.registerAccess State.takeRead
        split <;> simp_all
    next => split <;> simp

/-- No well-formed row but TIME_LOW_READ is a bus cycle that reads TIME LOW. -/
theorem busCycle_at_timeLow_is_write {c : Instr} {x : Access} (hwf : c.wellFormed = true) (hc : c ≠ .timeLowRead)
    (h : busCycle c = some (0x0014, x)) : x ≠ .read := by
  cases c with
  | timeLowRead => exact absurd rfl hc
  | readOnlyWrite a v | registerWrite a v =>
    obtain ⟨-, rfl⟩ := Prod.mk.inj (Option.some.inj h)
    exact nofun
  | unmappedAccess a _ | hostSharedMemoryAccess a _ =>
    obtain ⟨rfl, -⟩ := Prod.mk.inj (Option.some.inj h)
    exact nomatch hwf
  | ringGeometryWrite register _ => cases register <;> exact nomatch h
  | stationConfigWrite word _ => cases word <;> exact nomatch h
  | _ => exact nomatch h

/-- No well-formed row but TIME_LOW_READ and PIN_RESET moves the holding register (R167). -/
theorem exec_timeHold {c : Instr} {s t : State} (hwf : c.wellFormed = true) (hc : c ≠ .timeLowRead) (hp : c ≠ .pinReset)
    (e : exec c s = .next t) : t.port.timeHold = s.port.timeHold := by
  cases hh : isHostAccess c with
  | false => exact (exec_event_kept hh hp e).1
  | true =>
    obtain ⟨a, x, hb⟩ | hcommand := isHostAccess_cases hh
    · obtain rfl := Host.Outcome.next.inj ((exec_of_busCycle hb s).symm.trans e)
      have hread : a = 0x0014 → x ≠ .read := by
        rintro rfl
        exact busCycle_at_timeLow_is_write hwf hc hb
      simp [State.hostAccess_timeHold _ hread]
    · exact (exec_command_kept hcommand e).1

/-- Settles O9: the read is `readTimeLow`, TIME HIGH is the holding register, and `exec_timeHold`. -/
theorem timeLowReadCapturesTheUpperHalf : Obligations.TimeLowReadCapturesTheUpperHalf := by
  refine ⟨?_, fun _ => rfl, fun c s t => exec_timeHold⟩
  rintro s₀ s rfl hr
  rw [exec_of_busCycle rfl, State.hostAccess_read hr (r := .timeLow) rfl]
  rfl

/-! ## The configuration words of a station -/

/-- STATION_CONFIG_WRITE is the owner's judgement of the word (R80, R164). -/
theorem exec_stationConfigWrite (w : StationWord) (v : Word) {s : State} (hr : s.served.port.resetAsserted = false) :
    exec (.stationConfigWrite w v) s = .next (s.served.writeStation w v) := by
  cases w with
  | expectedIdentity => exact exec_register (.stationWindow 0) rfl rfl hr
  | preferredTrunk => exact exec_register (.stationWindow 1) rfl rfl hr

/-- A station in service keeps its expected identity under a write to the configuration words. -/
theorem State.writeStation_identity (s : State) (w : StationWord) (v : Word) {n : Nat} (h : (s.station n).state ≠ .off) :
    ((s.writeStation w v).station n).expectedIdentity = (s.station n).expectedIdentity := by
  unfold State.writeStation
  dsimp only
  split
  · rfl
  next hoff =>
    have hne : n ≠ s.set.stationSelect.toNat := by
      rintro rfl
      exact hoff h
    cases w with
    | expectedIdentity => exact congrArg _ (State.station_setStation_other s _ hne)
    | preferredTrunk =>
      dsimp only
      split
      · exact congrArg _ (State.station_setStation_other s _ hne)
      · rfl

/-- So does it under a write to any register. -/
theorem State.writeRegister_identity (s : State) (r : Register) (a : HostAddress) (v : Word) {n : Nat}
    (h : (s.station n).state ≠ .off) :
    ((s.writeRegister r a v).station n).expectedIdentity = (s.station n).expectedIdentity := by
  cases r with
  | command => exact State.identity_of_identitiesOf (State.writeCommand_holds s v).2 n
  | stationWindow i =>
    match i with
    | 0 | 1 => exact s.writeStation_identity _ _ h
    | 2 | 3 | 4 | 5 => rfl
  | trunkRate | ringBase | ringSize | ringReadIndex =>
    exact congrArg _ (State.station_congr (by simp [State.writeRegister]) n)
  | planABase | planBBase | demandRetries | occupancyGuard | pointBase | pointCount | pointSelect | stationSelect
  | suspectAfter | absentAfter | confirmCount | probeInterval | trainingTimeout | trunkFaultLimit | ringWatermark =>
    unfold State.writeRegister State.judge
    dsimp only
    split <;> rfl
  | _ => rfl

/-- So does it under any access. -/
theorem State.hostAccess_identity (s : State) (a : HostAddress) (x : Access) {n : Nat} (h : (s.station n).state ≠ .off) :
    ((s.hostAccess a x).station n).expectedIdentity = (s.station n).expectedIdentity := by
  unfold State.hostAccess
  split
  · rfl
  · split
    · cases x with
      | write v => exact s.writeRegister_identity _ _ v h
      | read => exact congrArg _ (State.station_congr (by simp [State.registerAccess]) n)
    · split <;> exact congrArg _ (State.station_congr (by simp) n)

/-- A station in service keeps its expected identity in every row but PIN_RESET (R80). -/
theorem exec_identity {c : Instr} {s t : State} {n : Nat} (hp : c ≠ .pinReset) (h : (s.station n).state ≠ .off)
    (e : exec c s = .next t) : (t.station n).expectedIdentity = (s.station n).expectedIdentity := by
  cases hh : isHostAccess c with
  | false => exact State.identity_of_identitiesOf (exec_event_kept hh hp e).2 n
  | true =>
    obtain ⟨a, x, hb⟩ | hcommand := isHostAccess_cases hh
    · obtain rfl := Host.Outcome.next.inj ((exec_of_busCycle hb s).symm.trans e)
      have hserved : s.served.station n = s.station n := State.station_congr (by simp) n
      rw [State.hostAccess_identity _ _ _ (by rwa [hserved]), hserved]
    · exact State.identity_of_identitiesOf (exec_command_kept hcommand e).2 n

/-! ## TRUNK RATE -/

/-- A REGISTER_WRITE of TRUNK RATE is the owner's judgement (R143). -/
theorem exec_trunkRate (v : Word) {s : State} (hr : s.served.port.resetAsserted = false) :
    exec (.registerWrite 0x0060 v) s = .next (s.served.writeTrunkRate 0x0060 v) := exec_register .trunkRate rfl rfl hr

/-- Both interfaces are OFF. -/
theorem State.bothOff_iff {s : State} : s.bothOff = true ↔ s.trunkA.state = .off ∧ s.trunkB.state = .off := by
  simp [State.bothOff]

/-- Settles O13: the two owners case by case, the gap and quiet at the new rate, and `exec_identity`. -/
theorem lockedConfigurationIsRefused : Obligations.LockedConfigurationIsRefused := by
  refine ⟨?station, ?rate, fun c s t n hp h e => exec_identity hp h e⟩
  case station =>
    rintro v s₀ s n r rfl hr rfl rfl
    simp only [exec_stationConfigWrite _ _ hr]
    generalize s₀.served = s
    refine ⟨fun hoff => ⟨?_, ?_, ?_, fun hv => ?_⟩, fun hon => ⟨?_, ?_⟩⟩
    · simp [State.writeStation, hoff]
    · rintro rfl
      simp [State.writeStation, hoff, preferredTrunkOf, trunkOfOperand]
    · rintro rfl
      simp [State.writeStation, hoff, preferredTrunkOf, trunkOfOperand]
    · have hnone : preferredTrunkOf v = none := by
        unfold preferredTrunkOf trunkOfOperand
        split <;> first | rfl | omega
      simp [State.writeStation, hoff, hnone, stationWordAddress]
    · simp [State.writeStation, hon, stationWordAddress]
    · simp [State.writeStation, hon, stationWordAddress]
  case rate =>
    rintro v s₀ s rfl hr
    simp only [exec_trunkRate v hr]
    generalize s₀.served = s
    refine ⟨fun hv => ?_, fun hv ha hb t ht => ⟨?_, ?_⟩, fun hv hlock => ?_⟩
    · rw [State.writeTrunkRate, if_pos hv]
    · rw [State.writeTrunkRate, if_neg (by omega), State.judge_accepted (State.bothOff_iff.mpr ⟨ha, hb⟩), ht]
      rfl
    · rintro k eight left rfl rfl
      have hgap : t.gapTime = if v = 0 then 16 else if v = 1 then 8 else 4 := State.gapTime_of_rate (by rw [ht]) hv
      have htrunk : t.trunk k = s.trunk k := by rw [ht]; cases k <;> rfl
      rw [← hgap]
      refine ⟨rfl, ?_, ?_, ?_⟩
      · rw [State.quietLeft, htrunk]
        rfl
      · intro h
        simp only [State.gapLeft, htrunk, Config.longestGap]
        rw [if_neg]
        simp only [Bool.and_eq_true, decide_eq_true_eq]
        omega
      · intro h0 h1
        simp only [State.gapLeft, htrunk, Config.longestGap]
        rw [if_pos]
        simp only [Bool.and_eq_true, decide_eq_true_eq]
        omega
    · rw [State.writeTrunkRate, if_neg (by omega), State.judge_refused]
      exact Bool.eq_false_iff.mpr fun h => hlock (State.bothOff_iff.mp h)

end Sys2Proof.Machine
end

section
/-! The event ring: admission (R154), the writer's accesses and publication (R149), and the host's writes (R148, R150,
R155). -/

namespace Sys2Proof.Machine

open Sys2Proof.Safety

/-! ## Admission -/

/-- A kind other than the two that have no enable is filtered by the bit of its number (R152). -/
theorem eventEnabled_eq (enable : Word) {kind : EventKind} (hf : kind ≠ .ringFull) (hr : kind ≠ .resumed) :
    eventEnabled enable kind = enable.getLsbD kind.code := by
  cases kind with
  | ringFull => exact absurd rfl hf
  | resumed => exact absurd rfl hr
  | _ => rfl

/-- Settles O21: the filter, and then the cases of `Ring.admission_cases`. -/
theorem eventsAreAdmittedDisplacedOrCounted : Obligations.EventsAreAdmittedDisplacedOrCounted := by
  intro s kind trunk station outcome item detail hf hr
  have hfilter := eventEnabled_eq s.ring.enable hf hr
  have hentries : s.ring.entries = 2 ^ s.ring.size.toNat := rfl
  unfold State.report
  refine ⟨fun hoff => ?_, fun hon hdrop => ?_, fun hon hdrop hroom => ?_, fun hon hdrop hfull => ?_⟩
  · rw [if_neg (by simp [hfilter, hoff])]
  · rw [if_pos (hfilter.trans hon), Ring.admission, if_pos hdrop]
  · rw [if_pos (hfilter.trans hon), Ring.admission, if_neg (by simp [hdrop]), if_pos (hentries ▸ hroom)]
    rfl
  · rw [if_pos (hfilter.trans hon), Ring.admission, if_neg (by simp [hdrop]),
      if_neg (by omega)]
    rfl

/-! ## The writer's accesses -/

/-- What the event writer's accesses depend on is left alone by the grants to others: the RAM and the place in the
record. -/
theorem State.grant_other {s : State} {r : Requester} (h : r ≠ .eventWriter) :
    (s.grant r).ram = s.ram ∧ (s.grant r).traffic.stored = s.traffic.stored := by
  cases r with
  | eventWriter => exact absurd rfl h
  | _ => exact ⟨rfl, rfl⟩

/-- So by the grants before the writer's turn. -/
theorem State.untilTurn_writer (s : State) (n : Nat) :
    (s.untilTurn .eventWriter n).ram = s.ram ∧ (s.untilTurn .eventWriter n).traffic.stored = s.traffic.stored := by
  induction n generalizing s with
  | zero => exact ⟨rfl, rfl⟩
  | succ k ih =>
    unfold State.untilTurn
    split
    · split
      · exact ⟨rfl, rfl⟩
      next hne =>
        obtain ⟨hram, hstored⟩ := ih (s.grant _)
        obtain ⟨hram', hstored'⟩ := State.grant_other (s := s) hne
        exact ⟨hram.trans hram', hstored.trans hstored'⟩
    · exact ⟨rfl, rfl⟩

/-- The writer's next access stores the next word of the record at the head (R149). -/
theorem State.serve_writer {s : State} {r : EventRecord} {rest : List EventRecord} (h : s.ring.awaiting = r :: rest) :
    (s.serve .eventWriter).ram = s.ram.write
      (ramAddress (s.ring.position s.ring.writeIndex + s.traffic.stored)) (r.words.getD s.traffic.stored 0) ∧
    (s.serve .eventWriter).traffic.stored = s.traffic.stored + 1 := by
  obtain ⟨hram, hstored⟩ := s.untilTurn_writer 3
  have hring : (s.untilTurn .eventWriter 3).ring = s.ring := by
    rw [s.untilTurn_only .eventWriter 3]
  have haccess : (s.untilTurn .eventWriter 3).access .eventWriter = (s.untilTurn .eventWriter 3).storeEventWord := rfl
  unfold State.serve State.grant
  rw [haccess, State.storeEventWord, hring, h]
  simp [State.writeRam, hram, hstored]

/-- The writer's next `n` accesses store the next `n` words of the record at the head, and no other (R149). -/
theorem State.serveMany_writer {s : State} {r : EventRecord} {rest : List EventRecord} (n : Nat) (hwf : RamCanonical s)
    (h : s.ring.awaiting = r :: rest) (hfit : s.ring.position s.ring.writeIndex + s.traffic.stored + n ≤ 16384) :
    (s.serveMany .eventWriter n).traffic.stored = s.traffic.stored + n ∧
    (s.serveMany .eventWriter n).lastGrant = (if n = 0 then s.lastGrant else .eventWriter) ∧
    (∀ k, s.traffic.stored ≤ k → k < s.traffic.stored + n →
      (s.serveMany .eventWriter n).ram.read (s.ring.position s.ring.writeIndex + k) = r.words.getD k 0) ∧
    ∀ a < 16384, a < s.ring.position s.ring.writeIndex + s.traffic.stored ∨
      s.ring.position s.ring.writeIndex + s.traffic.stored + n ≤ a →
      (s.serveMany .eventWriter n).ram.read a = s.ram.read a := by
  induction n generalizing s with
  | zero => exact ⟨rfl, rfl, fun k h0 h1 => by omega, fun _ _ _ => rfl⟩
  | succ n ih =>
    obtain ⟨hram, hstored⟩ := State.serve_writer h
    have hring : (s.serve .eventWriter).ring = s.ring := by simp
    have hlast : (s.serve .eventWriter).lastGrant = .eventWriter := rfl
    have hplace : ramAddress (s.ring.position s.ring.writeIndex + s.traffic.stored) =
        s.ring.position s.ring.writeIndex + s.traffic.stored := ramAddress_of_lt (by unfold Config.ramWords; omega)
    obtain ⟨hn, hl, hwords, hothers⟩ := ih (s := s.serve .eventWriter) (State.serve_wf _ hwf) (by rw [hring, h])
      (by rw [hring, hstored]; omega)
    rw [hring, hstored] at hwords hothers
    rw [hram, hplace] at hothers
    refine ⟨by rw [State.serveMany, hn, hstored]; omega, ?_, fun k h0 h1 => ?_, fun a ha hout => ?_⟩
    · rw [State.serveMany, hl, hlast, if_neg (Nat.succ_ne_zero n)]
      split <;> rfl
    · obtain rfl | hlt := Nat.eq_or_lt_of_le h0
      · exact (hothers _ (by omega) (by omega)).trans (Ram.read_write_same hwf)
      · exact hwords k hlt (by omega)
    · exact (hothers a ha (by omega)).trans (Ram.read_write_other (by omega))

/-! ## Publication -/

/-- EVENT_RECORD_PUBLISHED with a record awaiting: its missing words are stored, and the ring advances (R149). -/
theorem exec_published {s : State} {r : EventRecord} {rest : List EventRecord} (h : s.served.ring.awaiting = r :: rest) :
    exec .eventRecordPublished s =
      .next ((s.served.serveMany .eventWriter (8 - s.served.traffic.stored)).advanceRing rest) := by
  have hpublish : s.served.publish = (s.served.serveMany .eventWriter (8 - s.served.traffic.stored)).advanceRing rest := by
    unfold State.publish
    rw [h]
  exact congrArg _ hpublish

/-- Settles O20: the accesses by `serveMany_writer`, the publication by `exec_published`. -/
theorem publicationStoresOneWholeRecord : Obligations.PublicationStoresOneWholeRecord := by
  refine ⟨?store, ?publish⟩
  case store =>
    rintro s u r rest n p hwf hinv hhead hn rfl rfl
    have hindex := hinv.writeIndexInRing
    have hfits := hinv.fits
    obtain ⟨hstored, hlast, hwords, hothers⟩ := State.serveMany_writer n hwf hhead (by unfold Ring.position; omega)
    refine ⟨?_, hstored, hwords, hothers⟩
    rw [← hlast]
    exact s.serveMany_only .eventWriter n
  case publish =>
    rintro s₀ s u r rest rfl hhead rfl
    refine ⟨_, exec_published hhead, ?_, fun hmark => ?_, fun hmark => ?_⟩
    · apply State.ext_fields <;> simp [State.advanceRing, Ring.publish, Ring.entries, HostPort.raise]
    all_goals
      simp only [State.advanceRing, HostPort.raise, publicationCauses, State.serveMany_frame, Ring.publish] at hmark ⊢
      simp only [hmark, if_true, if_false]
      rfl

/-! ## The host's writes -/

/-- Settles O18: the two refusals, and then whether the ring comes out of DROPPING. -/
theorem readIndexWriteConsumesOrIsRefused : Obligations.ReadIndexWriteConsumesOrIsRefused := by
  rintro v s₀ s rfl hr
  have hexec : exec (.ringReadIndexWrite v) s₀ = .next (s₀.served.writeReadIndex v) :=
    exec_register .ringReadIndex rfl rfl hr
  rw [hexec]
  generalize s₀.served = s
  unfold State.writeReadIndex Ring.consumed Ring.entries
  refine ⟨fun hlarge => ?_, fun hsmall hpast => ?_, fun hsmall hin moved hmoved => ⟨fun hstays => ?_, fun hresumes => ?_⟩⟩
  · rw [if_pos hlarge]
    rfl
  · rw [if_neg (by omega), if_pos hpast]
    rfl
  · subst hmoved
    rw [if_neg (by omega), if_neg (by omega)]
    refine congrArg _ (if_neg ?_)
    simp only [Bool.and_eq_true, decide_eq_true_eq, not_and, not_le]
    intro hdrop
    exact hstays.resolve_left (by simp [hdrop])
  · subst hmoved
    rw [if_neg (by omega), if_neg (by omega)]
    refine congrArg _ (if_pos ?_)
    simpa only [Bool.and_eq_true, decide_eq_true_eq] using hresumes

/-- The engine is RUNNING or DRAINING. -/
theorem State.engineWalks_iff {s : State} : s.engineWalks = true ↔ s.eng.state = .running ∨ s.eng.state = .draining := by
  simp [State.engineWalks]

/-- The engine is IDLE or HALTED. -/
theorem State.engineWalks_of_rest {s : State} (h : s.eng.state = .idle ∨ s.eng.state = .halted) : s.engineWalks = false := by
  obtain h | h := h <;> simp [State.engineWalks, h]

/-- The ring lies inside the RAM. -/
theorem ringFits_iff {base size : Nat} : ringFits base size = true ↔ base + 8 * 2 ^ size ≤ 16384 := decide_eq_true_iff

/-- Settles O19: range, lock and fit of the two registers in this order. -/
theorem ringGeometryWriteEmptiesTheRing : Obligations.RingGeometryWriteEmptiesTheRing := by
  rintro v s₀ s rfl hr
  have hbase : exec (.ringGeometryWrite .base v) s₀ = .next (s₀.served.writeRingBase v) :=
    exec_register .ringBase rfl rfl hr
  have hsize : exec (.ringGeometryWrite .size v) s₀ = .next (s₀.served.writeRingSize v) :=
    exec_register .ringSize rfl rfl hr
  rw [hbase, hsize]
  generalize s₀.served = s
  unfold State.writeRingBase State.writeRingSize
  refine ⟨fun hv => ?_, fun hv hlock => ?_, fun hv hrest => ⟨fun hfit => ?_, fun hfit => ?_⟩, fun hv => ?_,
    fun hl hh hlock => ?_, fun hl hh hrest => ⟨fun hfit => ?_, fun hfit => ?_⟩⟩
  · rw [if_pos hv]
    rfl
  · rw [if_neg (by omega), if_pos (State.engineWalks_iff.mpr hlock)]
    rfl
  · rw [if_neg (by omega), State.engineWalks_of_rest hrest, if_neg (by decide), if_pos]
    · rfl
    · simp [← Bool.not_eq_true, ringFits_iff, hfit]
  · rw [if_neg (by omega), State.engineWalks_of_rest hrest, if_neg (by decide), if_neg]
    · rfl
    · simp [ringFits_iff, hfit]
  · rw [if_pos (by simpa using hv)]
    rfl
  · rw [if_neg (by simp; omega), if_pos (State.engineWalks_iff.mpr hlock)]
    rfl
  · rw [if_neg (by simp; omega), State.engineWalks_of_rest hrest, if_neg (by decide), if_pos]
    · rfl
    · simp [← Bool.not_eq_true, ringFits_iff, hfit]
  · rw [if_neg (by simp; omega), State.engineWalks_of_rest hrest, if_neg (by decide), if_neg (by simp [ringFits_iff, hfit])]
    refine ⟨_, rfl, rfl, ?_⟩
    have hpow : 2 ^ v.toNat ≤ 2 ^ 10 := Nat.pow_le_pow_right (by norm_num) hh
    simp only [State.placeRing]
    split
    · rw [BitVec.toNat_ofNat, Nat.mod_eq_of_lt (by omega)]
      omega
    · omega

end Sys2Proof.Machine
end

section
/-! The engine's commands: START, STEP, STOP ROUND and STOP SWEEP (R25 to R27), ABORT (R29) and ENGINE RESET (R46). -/

namespace Sys2Proof.Machine

open Sys2Proof.Safety

/-! ## START, STEP and the stop commands -/

/-- START from IDLE (R25). -/
theorem State.start_idle {s : State} (he : s.eng.state = .idle) :
    s.start = if s.eng.active.isNone then s.refuseNoPlan
      else (sweepBegins (engineMoves s .running .none 0x0101)).complete .done 0 := by
  rw [State.start, he]
  dsimp only
  rw [State.changeEngine_eq_engineMoves .running .none engineCauseStart he]
  rfl

/-- STEP from IDLE (R26). -/
theorem State.stepRound_idle {s : State} (he : s.eng.state = .idle) :
    s.stepRound = if s.eng.active.isNone then s.refuseNoPlan
      else (sweepBegins (engineMoves s .draining .roundEnd 0x0202)).complete .done 0 := by
  rw [State.stepRound, he]
  dsimp only
  rw [State.changeEngine_eq_engineMoves .draining .roundEnd engineCauseStep he]
  rfl

/-- START while RUNNING (R25). -/
theorem State.start_running {s : State} (he : s.eng.state = .running) : s.start = s.complete .done 0 := by
  rw [State.start, he]

/-- START while DRAINING goes on RUNNING (R25). -/
theorem State.start_draining {s : State} (he : s.eng.state = .draining) :
    s.start = (engineMoves s .running .none 0x2101).complete .done 0 := by
  rw [State.start, he]
  exact congrArg (State.complete · .done 0) (State.changeEngine_eq_engineMoves .running .none engineCauseStart he)

/-- START while HALTED is refused (R25). -/
theorem State.start_halted {s : State} (he : s.eng.state = .halted) : s.start = s.refuseEngine := by
  rw [State.start, he]

/-- STEP outside IDLE is refused (R26). -/
theorem State.stepRound_refused {s : State} (he : s.eng.state ≠ .idle) : s.stepRound = s.refuseEngine := by
  unfold State.stepRound
  split
  next h => exact absurd h he
  all_goals rfl

/-- Settles O22: the two commands in the four engine states. -/
theorem startAndStepBeginASweep : Obligations.StartAndStepBeginASweep := by
  rintro s₀ s rfl hready
  rw [exec_command (c := .start) rfl hready, exec_command (c := .step) rfl hready]
  generalize s₀.served = s
  have hstart : (taken s 0x0001).act 0x0001 = (taken s 0x0001).start := rfl
  have hstep : (taken s 0x0002).act 0x0002 = (taken s 0x0002).stepRound := rfl
  rw [hstart, hstep]
  refine ⟨fun he ha => ?plan, fun he ha => ?noPlan, fun he => ?running, fun he => ?draining, fun he => ?halted⟩
  case plan =>
    have hsome : ¬s.eng.active.isNone = true := fun h => ha (Option.isNone_iff_eq_none.mp h)
    rw [State.start_idle (s := taken s 0x0001) he, State.stepRound_idle (s := taken s 0x0002) he]
    exact ⟨congrArg _ (if_neg hsome), congrArg _ (if_neg hsome)⟩
  case noPlan =>
    have hnone : s.eng.active.isNone = true := Option.isNone_iff_eq_none.mpr ha
    rw [State.start_idle (s := taken s 0x0001) he, State.stepRound_idle (s := taken s 0x0002) he]
    exact ⟨congrArg _ (if_pos hnone), congrArg _ (if_pos hnone)⟩
  case running =>
    rw [State.start_running (s := taken s 0x0001) he, State.stepRound_refused (s := taken s 0x0002) (by exact he ▸ nofun)]
    exact ⟨rfl, congrArg _ (State.refuseEngine_taken _ he)⟩
  case draining =>
    rw [State.start_draining (s := taken s 0x0001) he, State.stepRound_refused (s := taken s 0x0002) (by exact he ▸ nofun)]
    exact ⟨rfl, congrArg _ (State.refuseEngine_taken _ he)⟩
  case halted =>
    rw [State.start_halted (s := taken s 0x0001) he, State.stepRound_refused (s := taken s 0x0002) (by exact he ▸ nofun)]
    exact ⟨congrArg _ (State.refuseEngine_taken _ he), congrArg _ (State.refuseEngine_taken _ he)⟩

/-- STOP ROUND while RUNNING (R27). -/
theorem State.stopRound_running {s : State} (he : s.eng.state = .running) :
    s.stopRound = (engineMoves s .draining .roundEnd 0x1203).complete .done 0 := by
  have hmoves := State.changeEngine_eq_engineMoves .draining .roundEnd engineCauseStopRound he
  rw [State.stopRound, he]
  exact congrArg (State.complete · .done 0) hmoves

/-- STOP SWEEP while RUNNING (R27). -/
theorem State.stopSweep_running {s : State} (he : s.eng.state = .running) :
    s.stopSweep = (engineMoves s .draining .sweepEnd 0x1204).complete .done 0 := by
  have hmoves := State.changeEngine_eq_engineMoves .draining .sweepEnd engineCauseStopSweep he
  rw [State.stopSweep, he]
  exact congrArg (State.complete · .done 0) hmoves

/-- STOP ROUND while DRAINING names the earlier stop point (R27). -/
theorem State.stopRound_draining {s : State} (he : s.eng.state = .draining) :
    s.stopRound = ({ s with eng := { s.eng with stop := .roundEnd } }).complete .done 0 := by
  unfold State.stopRound
  split <;> first | rfl | simp_all

/-- STOP SWEEP while DRAINING keeps the stop point (R27). -/
theorem State.stopSweep_draining {s : State} (he : s.eng.state = .draining) : s.stopSweep = s.complete .done 0 := by
  rw [State.stopSweep, he]

/-- STOP ROUND and STOP SWEEP in IDLE and HALTED are refused (R27). -/
theorem State.stop_refused {s : State} (he : s.eng.state = .idle ∨ s.eng.state = .halted) :
    s.stopRound = s.refuseEngine ∧ s.stopSweep = s.refuseEngine := by
  unfold State.stopRound State.stopSweep
  obtain he | he := he <;> rw [he] <;> exact ⟨rfl, rfl⟩

/-- Settles O23: the two commands in the four engine states. -/
theorem stopCommandsNameTheStopPoint : Obligations.StopCommandsNameTheStopPoint := by
  rintro s₀ s rfl hready
  rw [exec_command (c := .stopRound) rfl hready, exec_command (c := .stopSweep) rfl hready]
  generalize s₀.served = s
  have hround : (taken s 0x0003).act 0x0003 = (taken s 0x0003).stopRound := rfl
  have hsweep : (taken s 0x0004).act 0x0004 = (taken s 0x0004).stopSweep := rfl
  rw [hround, hsweep]
  refine ⟨fun he => ?running, fun he => ?draining, fun he => ?idle, fun he => ?halted⟩
  case running =>
    rw [State.stopRound_running (s := taken s 0x0003) he, State.stopSweep_running (s := taken s 0x0004) he]
    exact ⟨rfl, rfl⟩
  case draining =>
    rw [State.stopRound_draining (s := taken s 0x0003) he, State.stopSweep_draining (s := taken s 0x0004) he]
    exact ⟨rfl, rfl⟩
  case idle =>
    rw [(State.stop_refused (s := taken s 0x0003) (.inl he)).1, (State.stop_refused (s := taken s 0x0004) (.inl he)).2]
    exact ⟨congrArg _ (State.refuseEngine_taken _ he), congrArg _ (State.refuseEngine_taken _ he)⟩
  case halted =>
    rw [(State.stop_refused (s := taken s 0x0003) (.inr he)).1, (State.stop_refused (s := taken s 0x0004) (.inr he)).2]
    exact ⟨congrArg _ (State.refuseEngine_taken _ he), congrArg _ (State.refuseEngine_taken _ he)⟩

/-! ## ABORT -/

/-- A cut attempt takes a call off the line where it stands, and nothing else (R140; assumption 23). -/
theorem State.cutAttempt_eq {s c : State} {x : Transfer}
    (h : (∃ el h0 h1 n pl, x.phase = .sending el h0 h1 n pl) ∧
        c = s.setTrunk x.trunk (silencedNow (s.trunk x.trunk)) ∨
      (∀ el h0 h1 n pl, x.phase ≠ .sending el h0 h1 n pl) ∧ c = s) : s.cutAttempt x = c := by
  unfold State.cutAttempt
  obtain ⟨⟨el, h0, h1, n, pl, hp⟩, rfl⟩ | ⟨hp, rfl⟩ := h
  · rw [hp]
    rfl
  · split
    next e => exact absurd e (hp _ _ _ _ _)
    next => rfl

/-- The command's registers and the cut are apart. -/
theorem State.cutAttempt_taken (s : State) (code : Word) (x : Transfer) :
    (taken s code).cutAttempt x = taken (s.cutAttempt x) code := by
  unfold State.cutAttempt
  split
  · cases x.trunk <;> rfl
  · rfl

/-- ABORT while the engine is at work (R29). -/
theorem State.abort_of_walks {s : State} (h : s.eng.state = .running ∨ s.eng.state = .draining) :
    s.abort = match s.xfer with
      | some x => (s.abortSlot.stopEngine .idle .none engineCauseAbort).holdCommand (.abortWait x.trunk s.cutBound)
      | none => (s.abortSlot.stopEngine .idle .none engineCauseAbort).complete .done 0 := by
  unfold State.abort
  obtain h | h := h <;> rw [h] <;> rfl

/-- A code of 0 leaves the point in the detail. -/
theorem codeIndex_zero (p : BitVec 8) : codeIndex 0 p.toNat = BitVec.ofNat 16 p.toNat := by
  have := p.isLt
  exact congrArg (BitVec.ofNat 16) (by omega)

/-- Settles O24: ABORT by the work of the slot in progress, and the completion. -/
theorem abortStopsTheEngineAtOnce : Obligations.AbortStopsTheEngineAtOnce := by
  refine ⟨?rest, ?noTransfer, ?transfer, ?complete⟩
  case rest =>
    rintro s₀ s rfl hready he
    rw [exec_command (c := .abort) rfl hready]
    have hact : (taken s₀.served 0x0005).abort = (taken s₀.served 0x0005).complete .done 0 := by
      unfold State.abort
      obtain he | he := he <;> simp only [show (taken s₀.served 0x0005).eng.state = _ from he]
    exact congrArg _ hact
  case noTransfer =>
    rintro s₀ s rfl hready he hx
    rw [exec_command (c := .abort) rfl hready]
    generalize s₀.served = s at *
    have habort : (taken s 0x0005).act 0x0005 =
        ((taken s 0x0005).abortSlot.stopEngine .idle .none engineCauseAbort).complete .done 0 := by
      refine (State.abort_of_walks (s := taken s 0x0005) he).trans ?_
      rw [show (taken s 0x0005).xfer = none from hx]
    rw [habort]
    have hslot : (taken s 0x0005).abortSlot = match s.eng.phase, s.demandInFlight with
        | .demandReading _, some d => (taken s 0x0005).dropInFlight.reportDemand d none .aborted 0
        | _, _ => taken s 0x0005 := by
      unfold State.abortSlot
      rw [show (taken s 0x0005).xfer = none from hx]
      rfl
    rw [hslot]
    refine ⟨fun hno => ?_, fun n d hp hd => ?_⟩
    · split
      next n d hp hd =>
        obtain hno | hno := hno
        · exact absurd hp (hno n)
        · exact nomatch hno.symm.trans hd
      next => rfl
    · rw [hp, hd]
      dsimp only
      rw [State.reportDemand, codeIndex_zero]
      rfl
  case transfer =>
    rintro s₀ s c w u x y rfl hready he hx hc rfl rfl rfl
    rw [exec_command (c := .abort) rfl hready]
    generalize s₀.served = s at *
    have hcut : (taken s 0x0005).cutAttempt x = c := State.cutAttempt_eq (s := taken s 0x0005) hc
    refine congrArg _ ((State.abort_of_walks (s := taken s 0x0005) he).trans ?_)
    rw [show (taken s 0x0005).xfer = some x from hx]
    have hslot : (taken s 0x0005).abortSlot = c.transferReports { x with outcome := .aborted } .aborted := by
      unfold State.abortSlot
      rw [show (taken s 0x0005).xfer = some x from hx]
      exact congrArg (fun u : State => u.transferReports { x with outcome := .aborted } .aborted) hcut
    have hargs : c.cmd.args = s.cmd.args := by
      rw [← hcut]
      simp [taken]
    dsimp only
    rw [hslot, ← hargs]
    apply State.ext_fields
    case cmd =>
      simp only [State.transferReports, State.holdCommand, State.stopEngine_frame, State.demandReport_frame,
        State.stationReport_frame, State.faultReport_frame, State.pointReport_frame]
      rfl
    all_goals rfl
  case complete =>
    rintro s₀ s args k left rfl hheld
    refine congrArg Host.Outcome.next ?_
    unfold State.abortComplete
    rw [hheld]
    rfl

/-! ## ENGINE RESET -/

/-- The one step of ENGINE RESET, but for the lines, is that of the statement (R46). -/
theorem State.resetRunTime_none {s : State} (hx : s.xfer = none) : s.resetRunTime = runTimeReset s := by
  unfold State.resetRunTime
  rw [hx]
  rfl

/-- With an attempt in flight its line is cut (R46, R140). -/
theorem State.resetRunTime_some {s : State} {x : Transfer} (hx : s.xfer = some x) :
    s.resetRunTime = { runTimeReset s with trunkA := (s.cutAttempt x).trunkA, trunkB := (s.cutAttempt x).trunkB } := by
  unfold State.resetRunTime
  rw [hx]
  apply State.ext_fields
  case pending | cmd | set | ram | time | lastGrant => simp [runTimeReset]
  all_goals rfl

/-- Settles O26: without an attempt and with one, and the completion. -/
theorem engineResetClearsRunTimeState : Obligations.EngineResetClearsRunTimeState := by
  refine ⟨?noAttempt, ?attempt, ?complete⟩
  case noAttempt =>
    rintro s₀ s rfl hready hx
    rw [exec_command (c := .engineReset) rfl hready]
    have hact : (taken s₀.served 0x0007).act 0x0007 = (taken s₀.served 0x0007).resetRunTime.complete .done 0 := by
      show (taken s₀.served 0x0007).engineReset = _
      unfold State.engineReset
      rw [show (taken s₀.served 0x0007).xfer = none from hx]
    rw [hact, State.resetRunTime_none (s := taken s₀.served 0x0007) hx]
    rfl
  case attempt =>
    rintro s₀ s c x rfl hready hx hc
    rw [exec_command (c := .engineReset) rfl hready]
    generalize s₀.served = s at *
    have hact : (taken s 0x0007).act 0x0007 =
        (taken s 0x0007).resetRunTime.holdCommand (.resetWait x.trunk s.cutBound) := by
      show (taken s 0x0007).engineReset = _
      unfold State.engineReset
      rw [show (taken s 0x0007).xfer = some x from hx]
      rfl
    have hcut : s.cutAttempt x = c := State.cutAttempt_eq hc
    rw [hact, State.resetRunTime_some (s := taken s 0x0007) hx, State.cutAttempt_taken, ← hcut]
    rfl
  case complete =>
    rintro s₀ s args k left rfl hheld
    refine congrArg Host.Outcome.next ?_
    unfold State.engineResetComplete
    rw [hheld]
    rfl

end Sys2Proof.Machine
end

section
/-! The schedule: the start of a round (R32), stops and boundaries (R19, R28, R38), the end of a slot (R33 to R36, R40)
and the expiry of the round timer. -/

namespace Sys2Proof.Machine

open Sys2Proof.Safety

/-! ## The kept plan -/

/-- What the schedule reads of the active plan. -/
theorem State.plan_of_active {s : State} {g : Geometry} (h : s.eng.active = some g) :
    s.roundCount = g.roundCount ∧ s.policy = g.policy ∧
      s.roundEntry = g.directory.getD s.eng.round { first := 0, count := 0 } := by
  simp [State.roundCount, State.policy, State.roundEntry, h]

/-! ## The start of a round -/

/-- The events of the demands that expire depend on the ring, the round, the sweep and the time only. -/
theorem State.reportExpired_ring (l : List Demand) {s u : State} (hring : s.ring = u.ring)
    (hround : s.eng.round = u.eng.round) (hsweep : s.eng.sweep = u.eng.sweep) (htime : s.time = u.time) :
    (s.reportExpired l).ring = (l.foldl (fun (u : State) d =>
      u.report .demandDone none d.station .expired (d.tag.setWidth 16) (BitVec.ofNat 16 d.point.toNat)) u).ring := by
  induction l generalizing s u with
  | nil => exact hring
  | cons d rest ih =>
    refine ih ?_ hround hsweep htime
    simp [State.reportDemand, State.report, State.record, codeIndex_zero, hring, hround, hsweep, htime]

/-- The reads of a slot's records begin with no word. -/
theorem State.beginSlot_eq (s : State) (i : Nat) :
    s.beginSlot i =
      { s with eng := { s.eng with slot := i, phase := .reading 0 }, traffic := { s.traffic with engine := some [] } } := rfl

/-- A demand stays on the list that is served, or has more than one round left. -/
theorem Demand.not_expires (d : Demand) : (!d.expires) = (d.inFlight || d.deadline != 1) := by
  cases hi : d.inFlight <;> simp [Demand.expires, hi, bne]

/-- Settles O27: the round's timer, the two notices, and the first slot. -/
theorem roundStartAgesTheTables : Obligations.RoundStartAgesTheTables := by
  rintro s t g r entry hg rfl rfl
  have haged : ∃ aged : State, aged = ({ s with
      eng := { s.eng with round := r, timer := .running (g.roundPeriod * 10) } } : State).ageStations.ageDemands ∧
      s.beginRound r = if (g.directory.getD r { first := 0, count := 0 }).count = 0 then aged
        else aged.beginSlot (g.directory.getD r { first := 0, count := 0 }).first := by
    refine ⟨_, rfl, ?_⟩
    unfold State.beginRound
    simp [hg, State.roundEntry]
  obtain ⟨aged, he, hbegin⟩ := haged
  have hstations : aged.stations = s.stations.map Station.aged := by rw [he]; simp [State.ageStations]
  have hdemands : aged.demands = (s.demands.filter (fun d : Demand => !d.expires)).map Demand.aged := by
    rw [he, State.ageDemands_demands]
    simp
  have hring : aged.ring = ((s.demands.filter Demand.expires).foldl (fun (u : State) d =>
      u.report .demandDone none d.station .expired (d.tag.setWidth 16) (BitVec.ofNat 16 d.point.toNat))
      { s with eng := { s.eng with round := r } }).ring := by
    rw [he]
    exact State.reportExpired_ring _ rfl rfl rfl rfl
  have hframe : aged = { s with
      eng := { s.eng with round := r, timer := .running (g.roundPeriod * 10) }
      stations := aged.stations, demands := aged.demands, ring := aged.ring } := by
    apply State.ext_fields <;> simp [he]
  have hkeep : (s.beginRound r).stations = aged.stations ∧ (s.beginRound r).demands = aged.demands ∧
      (s.beginRound r).ring = aged.ring := by
    rw [hbegin]
    split <;> exact ⟨rfl, rfl, rfl⟩
  obtain ⟨hs, hd, hr⟩ := hkeep
  refine ⟨?frame, fun n h0 h1 => ?station, ?queue,
    by rw [hr, hring]; rfl, ?empty, ?first⟩
  case frame =>
    rw [hbegin, hframe]
    split <;> rfl
  case station =>
    have e := State.mapStations (hs.trans hstations) (n := n) ⟨h0, by unfold Config.stationCount; omega⟩
    rw [e]
    exact ⟨fun h => if_pos h, fun h => if_neg h⟩
  case queue =>
    rw [hd, hdemands]
    simp only [Demand.not_expires]
    rfl
  case empty =>
    intro hc
    rw [hbegin, if_pos hc, hframe]
    exact ⟨rfl, rfl, rfl⟩
  case first =>
    intro hc
    rw [hbegin, if_neg (Nat.pos_iff_ne_zero.mp hc), hframe]
    exact ⟨rfl, rfl, rfl⟩

/-! ## Stops and boundaries -/

/-- A pending switch is applied. -/
theorem State.applyPending_eq (s : State) : s.applyPending = switched s := by
  cases hpend : s.eng.pending with
  | none => simp only [State.applyPending, switched, hpend]
  | some g => simp only [State.applyPending, switched, hpend, State.activate]

/-- The switch leaves the engine's state. -/
theorem switched_state (s : State) : (switched s).eng.state = s.eng.state := by
  rw [← State.applyPending_eq, State.applyPending_eng]

/-- The end of a round: the sweep boundary, a stop point, or the next round (R28). -/
theorem State.endRound_eq {s : State} {g : Geometry} (hg : s.eng.active = some g) :
    (g.roundCount ≤ s.eng.round + 1 → s.endRound = s.sweepBoundary) ∧
    (s.eng.round + 1 < g.roundCount → s.eng.state = .draining → s.eng.stop = .roundEnd →
      s.endRound = s.stopEngine .idle .none engineCauseStopReached) ∧
    (s.eng.round + 1 < g.roundCount → ¬(s.eng.state = .draining ∧ s.eng.stop = .roundEnd) →
      s.endRound = s.beginRound (s.eng.round + 1)) := by
  obtain ⟨hcount, -, -⟩ := State.plan_of_active hg
  unfold State.endRound
  rw [hcount]
  refine ⟨fun h => if_pos h, fun h he hs => ?_, fun h hne => ?_⟩
  · rw [if_neg (by omega), if_pos ⟨he, hs⟩]
  · rw [if_neg (by omega), if_neg hne]

/-- Settles O30: the stop, the boundary and the end of a round. -/
theorem stopsAndBoundariesApplyThePendingSwitch : Obligations.StopsAndBoundariesApplyThePendingSwitch := by
  refine ⟨?stop, ?boundary, fun s g hg => State.endRound_eq hg⟩
  case stop =>
    rintro s u new halt cause rfl
    rw [← switched_state s]
    unfold State.stopEngine
    rw [State.applyPending_eq]
    rfl
  case boundary =>
    rintro s told g hg rfl
    obtain ⟨hcount, -, -⟩ := State.plan_of_active hg
    unfold State.sweepBoundary
    rw [hcount, State.applyPending_eq]
    exact ⟨fun h => if_pos h, fun h => if_neg h⟩

/-! ## The end of a slot -/

/-- The round is cut short once its timer has expired under another policy than LATE. -/
theorem State.cutShort_eq {s : State} {g : Geometry} (hg : s.eng.active = some g) :
    s.cutShort = (s.eng.timer == .expired && g.policy != .late) := by
  rw [State.cutShort, (State.plan_of_active hg).2.1]

/-- Settles O29: the policies at the end of a slot, the count of the slots left, and the end of a pause. -/
theorem slotEndLeadsOn : Obligations.SlotEndLeadsOn := by
  refine ⟨?ends, ?left, ?pause⟩
  case ends =>
    rintro s e g hg he
    have hslot : s.endSlot = e.afterSlot := by rw [he]; rfl
    have hactive : e.eng.active = some g := by rw [he]; exact hg
    have htimer : e.eng.timer = s.eng.timer := by rw [he]
    have hindex : e.eng.slot = s.eng.slot := by rw [he]
    have hpolicy := (State.plan_of_active hactive).2.1
    rw [hslot, State.afterSlot, State.cutShort_eq hactive, hpolicy, htimer, hindex, State.beginSlot_eq]
    refine ⟨fun ht hp => ?_, fun ht hp => ?_, fun h hleft => ?_, fun ht hp hleft => ?_, fun ht hleft => ?_⟩
    · simp [ht, hp, engineCauseOverrun]
    · simp [ht, hp]
    · obtain h | h := h <;> simp [h, hleft]
    · simp [ht, hp, hleft]
    · simp [ht, hleft]
  case left =>
    rintro s g entry hg rfl
    rw [State.slotsLeft, (State.plan_of_active hg).2.2]
  case pause =>
    rintro s₀ s left rfl hp
    have hend : s₀.served.endPause = (s₀.served.elapse left).endSlot := by rw [State.endPause, hp]
    exact congrArg _ hend

/-! ## The expiry of the round timer -/

/-- ROUND_TIMER_EXPIRY with the timer RUNNING (R33). -/
theorem exec_roundTimerExpiry {s : State} {left : Nat} (ht : s.served.eng.timer = .running left) :
    exec .roundTimerExpiry s = .next (s.served.elapse left).timerExpired := by
  have hends : s.served.roundTimerEnds = (s.served.elapse left).timerExpired := by rw [State.roundTimerEnds, ht]
  exact congrArg _ hends

/-- Settles O28: the round ends by `endRound_eq`, or overruns. -/
theorem roundTimerEndsTheRoundOrOverruns : Obligations.RoundTimerEndsTheRoundOrOverruns := by
  rintro s₀ s u g left rfl ht hg hu
  rw [exec_roundTimerExpiry ht, ← hu]
  have hactive : u.eng.active = some g := by rw [hu]; simpa [Engine.elapse] using hg
  have hround : u.eng.round = s₀.served.eng.round := by rw [hu]; simp [Engine.elapse]
  have hstate : u.eng.state = s₀.served.eng.state := by rw [hu]; simp [Engine.elapse]
  have hstop : u.eng.stop = s₀.served.eng.stop := by rw [hu]; simp [Engine.elapse]
  have hslot : u.eng.slot = s₀.served.eng.slot := by rw [hu]; simp [Engine.elapse]
  rw [← hround, ← hstate, ← hstop, ← hslot]
  clear hround hstate hstop hslot hu ht hg
  refine ⟨fun hp hleft => ?ends, fun hopen o ho => ?overruns⟩
  case ends =>
    rw [State.timerExpired, if_pos ⟨hp, hleft⟩]
    obtain ⟨hlast, hstops, hnext⟩ := State.endRound_eq hactive
    exact ⟨fun h => congrArg _ (hlast h), fun h he hs => congrArg _ (hstops h he hs), fun h hne => congrArg _ (hnext h hne)⟩
  case overruns =>
    have hpolicy := (State.plan_of_active hactive).2.1
    have hitem : (if u.eng.phase = .none then u.slotItem + 1 else u.slotItem) =
        BitVec.ofNat 16 (u.eng.slot + if u.eng.phase = SlotPhase.none then 1 else 0) := by
      unfold State.slotItem
      split
      · rw [BitVec.ofNat_add]
        rfl
      · rfl
    rw [State.timerExpired, if_neg hopen, State.overrun, hpolicy, hitem]
    dsimp only
    rw [← ho]
    refine ⟨fun hp => congrArg _ (if_pos hp), fun hp hphase => ?_, fun hp ⟨n, hphase⟩ => ?_, fun hp hphase => ?_⟩
    · rw [if_neg hp, hphase]
    · rw [if_neg hp, hphase]
      rfl
    · rw [if_neg hp]
      obtain hphase | ⟨n, hphase⟩ | ⟨n, hphase⟩ := hphase <;> rw [hphase]

end Sys2Proof.Machine
end

section
/-! The decisions of a slot (R8, R22, R40 to R45), the hand-over of a transfer (R50, R52) and the take of a demand (R123,
R124). -/

namespace Sys2Proof.Machine

open Sys2Proof.Safety

/-! ## The end of a read leaves the part as it was -/

/-- The read given up moves the traffic only. -/
theorem State.endEngineRead_only (s : State) : OnlyTraffic s s.endEngineRead := rfl

/-- The station table is the same. -/
theorem OnlyTraffic.station {s e : State} (h : OnlyTraffic s e) (n : Nat) : e.station n = s.station n :=
  State.station_congr (by rw [h]) n

/-- The point table is the same. -/
theorem OnlyTraffic.point {s e : State} (h : OnlyTraffic s e) (p : BitVec 8) : e.point p = s.point p :=
  State.point_congr (by rw [h]) p

/-- The lines are the same. -/
theorem OnlyTraffic.trunk {s e : State} (h : OnlyTraffic s e) (t : TrunkId) : e.trunk t = s.trunk t :=
  State.trunk_congr (by rw [h]) (by rw [h]) t

/-- A trunk is READY, or only TRAINING, or none is usable, in both. -/
theorem OnlyTraffic.trunks {s e : State} (h : OnlyTraffic s e) :
    (someReady s → someReady e) ∧ (onlyTraining s → onlyTraining e) ∧ (noneUsable s → noneUsable e) := by
  have ha : e.trunkA = s.trunkA := by rw [h]
  have hb : e.trunkB = s.trunkB := by rw [h]
  simp only [someReady, onlyTraining, noneUsable, ha, hb]
  exact ⟨id, id, id⟩

/-- The same demands are eligible, and can be served. -/
theorem OnlyTraffic.eligible {s e : State} (h : OnlyTraffic s e) : e.eligible = s.eligible ∧ e.servable = s.servable := by
  have he : e.eligible = s.eligible := funext fun d => by rw [State.eligible, State.eligible, h.station]
  exact ⟨he, funext fun d => by rw [State.servable, State.servable, he]⟩

/-! ## The end of a slot's reads -/

/-- SLOT_RECORD_READ_DONE in a slot's reads (R21, R40). -/
theorem exec_slotRead {s : State} {n : Nat} (hp : s.served.eng.phase = .reading n) :
    exec .slotRecordReadDone s = .next ((s.served.engineReadsOn 4700).slotChecked n) := by
  have hread : s.served.endSlotRead = (s.served.engineReadsOn 4700).slotChecked n := by
    rw [State.endSlotRead, hp]
    rfl
  exact congrArg _ hread

/-- A failed re-check (R22). -/
theorem State.slotChecked_error {s : State} {f : CheckFailure} (n : Nat)
    (h : s.engineFinds (recheckSlot s.activeBase s.eng.slot) = .error f) :
    s.slotChecked n = s.endEngineRead.planFault f := by
  rw [State.slotChecked, h]

/-- A gate that does not match (R8). -/
theorem State.slotChecked_closed {s : State} {start : SlotStart} (n : Nat)
    (h : s.engineFinds (recheckSlot s.activeBase s.eng.slot) = .ok start) (hg : ¬gateRuns s start.slot) :
    s.slotChecked n = s.endEngineRead.endSlot := by
  rw [State.slotChecked, h]
  exact if_neg fun e => hg ((gateMatches_iff s start.slot).mp e)

/-- A gate that matches (R8, R40). -/
theorem State.slotChecked_open {s : State} {start : SlotStart} (n : Nat)
    (h : s.engineFinds (recheckSlot s.activeBase s.eng.slot) = .ok start) (hg : gateRuns s start.slot) :
    s.slotChecked n = s.endEngineRead.slotWork start n := by
  rw [State.slotChecked, h]
  exact if_pos ((gateMatches_iff s start.slot).mpr hg)

/-! ## The work of each kind -/

/-- SEND-ON-COMMIT holds a point back (R41, R114). -/
theorem State.heldBack_eq_true {s : State} {p : BitVec 8} {r : PointRecord} (hf : r.function ≠ .read)
    (hs : r.sendOnCommit = true) (hc : (s.point p).committed = false) : s.heldBack p r = true := by
  have hout : r.function.usesOut = true := by
    cases h : r.function with
    | read => exact absurd h hf
    | _ => rfl
  simp [State.heldBack, hout, hs, hc]

/-- SEND-ON-COMMIT lets a point go (R41, R114). -/
theorem State.heldBack_eq_false {s : State} {p : BitVec 8} {r : PointRecord}
    (h : r.function = .read ∨ r.sendOnCommit = false ∨ (s.point p).committed = true) : s.heldBack p r = false := by
  obtain h | h | h := h <;> simp [State.heldBack, h, PointFunction.usesOut]

section transfer

variable {s : State} {p : BitVec 8} {r : PointRecord} {retries : Nat} {policy : RetryPolicy}

/-- A slot of an OFF station is skipped (R41, R89). -/
theorem State.transferSlot_off (h63 : r.station ≠ 63) (h : (s.station r.station).state = .off) :
    s.transferSlot p r retries policy = s.endSlot := by
  rw [State.transferSlot, if_neg (c := r.station = Config.broadcastStation) h63, h]

/-- A slot of an ABSENT station is skipped until its countdown has run out (R89, R90). -/
theorem State.transferSlot_absent (h63 : r.station ≠ 63) (h : (s.station r.station).state = .absent)
    (hc : (s.station r.station).probeCountdown ≠ 0) : s.transferSlot p r retries policy = s.endSlot := by
  rw [State.transferSlot, if_neg (c := r.station = Config.broadcastStation) h63, h]
  exact if_neg hc

/-- A slot of an ABSENT station whose countdown has run out, or of a CONFIRMING one, is a probe (R89, R90). -/
theorem State.transferSlot_probe (h63 : r.station ≠ 63) (h : (s.station r.station).state = .confirming ∨
      (s.station r.station).state = .absent ∧ (s.station r.station).probeCountdown = 0) :
    s.transferSlot p r retries policy = s.needTrunk (fun s => s.handOverProbe p r (retries + 1) policy) := by
  rw [State.transferSlot, if_neg (c := r.station = Config.broadcastStation) h63]
  obtain h | ⟨h, hc⟩ := h <;> rw [h]
  exact if_pos hc

/-- A broadcast slot (R41). -/
theorem State.transferSlot_broadcast (h63 : r.station = 63) :
    s.transferSlot p r retries policy =
      if s.heldBack p r then s.endSlot else s.needTrunk (fun s => s.handOverBroadcast none p r) := by
  rw [State.transferSlot, if_pos (c := r.station = Config.broadcastStation) h63]

/-- A slot of a station that is called (R41, R89). -/
theorem State.transferSlot_called (h63 : r.station ≠ 63)
    (h : (s.station r.station).state = .online ∨ (s.station r.station).state = .suspect) :
    s.transferSlot p r retries policy =
      if s.heldBack p r then s.endSlot else s.needTrunk (fun s => s.handOverPoint none p r (retries + 1) policy) := by
  rw [State.transferSlot, if_neg (c := r.station = Config.broadcastStation) h63]
  obtain h | h := h <;> rw [h]

/-- A point held back ends its slot, called or broadcast (R41). -/
theorem State.transferSlot_heldBack
    (h : r.station = 63 ∨ (s.station r.station).state = .online ∨ (s.station r.station).state = .suspect)
    (hb : s.heldBack p r = true) : s.transferSlot p r retries policy = s.endSlot := by
  by_cases h63 : r.station = 63
  · rw [State.transferSlot_broadcast h63, if_pos hb]
  · rw [State.transferSlot_called h63 (h.resolve_left h63), if_pos hb]

/-- Every other slot needs a trunk (R44). -/
theorem State.transferSlot_needs
    (h : (r.station = 63 ∨ (s.station r.station).state = .online ∨ (s.station r.station).state = .suspect) ∧
          s.heldBack p r = false ∨
        r.station ≠ 63 ∧ ((s.station r.station).state = .confirming ∨
          (s.station r.station).state = .absent ∧ (s.station r.station).probeCountdown = 0)) :
    ∃ work, s.transferSlot p r retries policy = s.needTrunk work := by
  obtain ⟨h, hb⟩ | ⟨h63, h⟩ := h
  · by_cases h63 : r.station = 63
    · exact ⟨_, by rw [State.transferSlot_broadcast h63, hb]; rfl⟩
    · exact ⟨_, by rw [State.transferSlot_called h63 (h.resolve_left h63), hb]; rfl⟩
  · exact ⟨_, State.transferSlot_probe h63 h⟩

end transfer

/-- Settles O31: the re-check, the gate, and then the work of each kind on the state after the reads. -/
theorem slotStartMayEndWithoutACall : Obligations.SlotStartMayEndWithoutACall := by
  rintro s₀ s r e n rfl hphase hr he
  rw [exec_slotRead hphase, ← hr]
  generalize s₀.served = s at *
  have honly : OnlyTraffic s r := hr ▸ s.engineReadsOn_only 4700
  have hsame : OnlyTraffic s e := honly.trans (he ▸ r.endEngineRead_only)
  have hbase : r.activeBase = s.activeBase := by rw [honly]; rfl
  have hslot : r.eng.slot = s.eng.slot := by rw [honly]
  have hgate : ∀ slot, gateRuns r slot ↔ gateRuns s slot := fun slot => by rw [gateRuns, gateRuns, honly]
  have heslot : e.slotItem = BitVec.ofNat 16 s.eng.slot := by rw [State.slotItem, hsame]
  rw [← hbase, ← hslot]
  obtain ⟨-, htraining, hnone⟩ := hsame.trunks
  refine ⟨fun f hf => ?_, fun start hstart => ⟨fun hg => ?_, fun hg => ?_⟩⟩
  · rw [State.slotChecked_error n hf, ← he, State.planFault, heslot, hslot]
    rfl
  · rw [State.slotChecked_closed n hstart (mt (hgate _).mp hg), ← he]
  · rw [State.slotChecked_open n hstart ((hgate _).mpr hg), ← he]
    refine ⟨fun length hw => ?_, fun p retries policy record hw hp => ?_, fun hw hany => ?_, fun hw => ?_⟩
    · rw [State.slotWork, hw]
      rfl
    · have hwork : e.slotWork start n = e.transferSlot p record retries policy := by rw [State.slotWork, hw, hp]
      rw [hwork, ← hsame.station, ← hsame.point]
      refine ⟨fun h63 => ⟨fun h => ?_, fun h hc => ?_⟩, fun h hf hs hc => ?_, fun h => ?_⟩
      · rw [State.transferSlot_off h63 h]
      · rw [State.transferSlot_absent h63 h hc]
      · rw [State.transferSlot_heldBack h (State.heldBack_eq_true hf hs hc)]
      · obtain ⟨work, hneeds⟩ := State.transferSlot_needs (p := p) (retries := retries) (policy := policy)
          (h.imp_left fun ⟨h, hb⟩ => ⟨h, State.heldBack_eq_false hb⟩)
        rw [hneeds]
        exact ⟨fun h => congrArg _ (State.needTrunk_training (htraining h) _),
          fun h => congrArg _ (State.needTrunk_none (hnone h) _)⟩
    · have hopen : e.slotWork start n = e.openSlot := by rw [State.slotWork, hw]
      rw [hopen, State.openSlot, hsame.eligible.2, if_neg]
      rw [hsame]
      simpa using hany
    · have hneeds : ∃ work, e.slotWork start n = e.needTrunk work := by
        obtain hw | ⟨hw, hany⟩ := hw
        · exact ⟨_, by rw [State.slotWork, hw]⟩
        · refine ⟨State.takeDemand, ?_⟩
          rw [State.slotWork, hw]
          dsimp only
          rw [State.openSlot, hsame.eligible.2, if_pos]
          rw [hsame]
          exact hany
      obtain ⟨work, hneeds⟩ := hneeds
      rw [hneeds]
      exact ⟨fun h => congrArg _ (State.needTrunk_training (htraining h) _),
        fun h => congrArg _ (State.needTrunk_none (hnone h) _)⟩

end Sys2Proof.Machine
end

section
/-! The hand-over of a transfer (R50, R52, R56, R90, R103) and the demand of an OPEN slot (R42, R123, R124). -/

namespace Sys2Proof.Machine

open Sys2Proof.Safety

/-! ## The first attempt -/

/-- An occupancy check with no time gone: a guard of 0 has lapsed on a line that is not quiet (R55, R56). -/
theorem waitForQuiet_zero (guard quiet : Nat) :
    waitForQuiet guard false quiet 0 = .occupancy guard (decide (guard = 0 ∧ 0 < quiet)) := by
  unfold waitForQuiet
  congr 1
  simp only [Bool.false_or, ← Bool.decide_and, decide_eq_decide]
  omega

/-- What an attempt that begins does first (R55, R56). -/
theorem State.firstPhase_eq (s : State) (t : TrunkId) :
    (if s.gapLeft t = 0 then waitForQuiet s.guardTime false (s.quietLeft t) 0 else .gap) = firstPhase s t := by
  rw [waitForQuiet_zero]
  rfl

/-- An attempt begins (R51, R56). -/
theorem State.beginAttempt_eq (s : State) (x : Transfer) (t : TrunkId) : s.beginAttempt x t = Safety.attemptOn s x t := by
  rw [State.beginAttempt, State.firstPhase_eq]
  rfl

/-- The first attempt of a transfer just set up (R50). -/
theorem State.beginAttempt_handedOver (s : State) {x : Transfer} (t : TrunkId) (h : x.attempts = 0) :
    s.enterTransfer.beginAttempt x t = handedOver s x t := by
  rw [State.beginAttempt_eq, Safety.attemptOn, h]
  rfl

/-- The trunk of a first attempt (R52). -/
theorem State.firstTrunk_eq (s : State) (t : TrunkId) : s.firstTrunk t = firstOf s t := by
  simp [State.firstTrunk, firstOf, State.ready]

/-- It depends on the lines only. -/
theorem firstOf_congr {s e : State} (h : ∀ t, e.trunk t = s.trunk t) (t : TrunkId) : firstOf e t = firstOf s t := by
  rw [firstOf, firstOf, h]

/-! ## The four hand-overs -/

/-- A POINT transfer (R50, R52, R103). -/
theorem State.handOverPoint_eq (s : State) (tag : Option (BitVec 8)) (p : BitVec 8) (r : PointRecord) (allowed : Nat)
    (policy : RetryPolicy) :
    s.handOverPoint tag p r allowed policy =
      handedOver (inFlight s p)
        (transferRecord .point tag p (some r) r.station allowed policy (s.station r.station).nextToggle)
        (firstOf s (s.station r.station).currentTrunk) := by
  rw [← State.firstTrunk_eq]
  exact (inFlight s p).beginAttempt_handedOver _ rfl

/-- A BROADCAST transfer (R50, R52, R103). -/
theorem State.handOverBroadcast_eq (s : State) (tag : Option (BitVec 8)) (p : BitVec 8) (r : PointRecord) :
    s.handOverBroadcast tag p r =
      handedOver (inFlight s p) (transferRecord .broadcast tag p (some r) 63 1 .same false) (firstOf s .a) := by
  rw [← State.firstTrunk_eq]
  exact (inFlight s p).beginAttempt_handedOver _ rfl

/-- A SYNC transfer (R50, R52). -/
theorem State.handOverSync_eq (s : State) :
    s.handOverSync = handedOver s (transferRecord .sync none 0 none 63 1 .same false) (firstOf s .a) := by
  rw [← State.firstTrunk_eq]
  exact s.beginAttempt_handedOver _ rfl

/-- A PROBE transfer; its issue sets an ABSENT station's countdown (R50, R52, R90). -/
theorem State.handOverProbe_eq (s : State) (p : BitVec 8) (r : PointRecord) (allowed : Nat) (policy : RetryPolicy) :
    s.handOverProbe p r allowed policy =
      handedOver (s.setStation r.station ((s.station r.station).probed s.set.probeInterval.toNat))
        (transferRecord .probe none p (some r) r.station allowed policy false)
        (firstOf s (s.station r.station).currentTrunk) := by
  rw [← State.firstTrunk_eq]
  exact State.beginAttempt_handedOver
    (s.setStation r.station ((s.station r.station).probed s.set.probeInterval.toNat)) _ rfl

/-- A record replaced by itself. -/
theorem State.setStation_self (s : State) (n : Nat) : s.setStation n (s.station n) = s := by
  by_cases h : isStation n
  · apply State.ext_fields
    case stations =>
      rw [State.setStation_of s _ h, State.station_of s h]
      exact Vector.set_getElem_self h.2
    all_goals rfl
  · rw [State.setStation_none s _ h]

/-- Settles O32: the slot's work needs a trunk, has one, and hands over. -/
theorem slotStartHandsOverATransfer : Obligations.SlotStartHandsOverATransfer := by
  rintro s₀ s r e n start rfl hphase hr he hstart hg hready
  rw [exec_slotRead hphase, ← hr]
  generalize s₀.served = s at *
  have honly : OnlyTraffic s r := hr ▸ s.engineReadsOn_only 4700
  have hsame : OnlyTraffic s e := honly.trans (he ▸ r.endEngineRead_only)
  have hread : r.slotChecked n = e.slotWork start n := by
    rw [he]
    refine State.slotChecked_open n ?_ ?_
    · rw [honly]
      exact (congrArg (fun u : State => u.engineFinds (recheckSlot s.activeBase s.eng.slot)) honly.symm).trans hstart
    · rw [gateRuns, honly]
      exact hg
  have hinterval : e.set = s.set := by rw [hsame]
  rw [hread, ← hinterval]
  have hready' := hsame.trunks.1 hready
  simp only [← hsame.station, ← hsame.point, ← firstOf_congr hsame.trunk]
  refine ⟨fun p retries policy record station hw hp h63 hst => ?_, fun p retries policy record hw hp h63 hfree => ?_,
    fun hw => ?_⟩
  · subst hst
    have hwork : e.slotWork start n = e.transferSlot p record retries policy := by rw [State.slotWork, hw, hp]
    rw [hwork]
    refine ⟨fun h hfree => ?_, fun h hc => ?_, fun h => ?_⟩
    · rw [State.transferSlot_called h63 h, State.heldBack_eq_false hfree, if_neg (by decide),
        State.needTrunk_ready hready', State.handOverPoint_eq]
    · rw [State.transferSlot_probe h63 (.inr ⟨h, hc⟩), State.needTrunk_ready hready', State.handOverProbe_eq,
        Station.probed, if_pos h]
    · have hprobed : (e.station record.station).probed e.set.probeInterval.toNat = e.station record.station :=
        if_neg (by simp [h])
      rw [State.transferSlot_probe h63 (.inl h), State.needTrunk_ready hready', State.handOverProbe_eq, hprobed,
        State.setStation_self]
  · have hwork : e.slotWork start n = e.transferSlot p record retries policy := by rw [State.slotWork, hw, hp]
    rw [hwork, State.transferSlot_broadcast h63, State.heldBack_eq_false hfree, if_neg (by decide),
      State.needTrunk_ready hready', State.handOverBroadcast_eq]
  · rw [State.slotWork, hw]
    dsimp only
    rw [State.needTrunk_ready hready', State.handOverSync_eq]

/-! ## The demand of an OPEN slot -/

/-- DEMAND_RECORD_READ_DONE in a demand's read (R123). -/
theorem exec_demandRead {s : State} {n : Nat} (hp : s.served.eng.phase = .demandReading n) :
    exec .demandRecordReadDone s = .next ((s.served.engineReadsOn 4700).demandChecked n) := by
  have hread : s.served.endDemandRead = (s.served.engineReadsOn 4700).demandChecked n := by
    rw [State.endDemandRead, hp]
    rfl
  exact congrArg _ hread

/-- The registers that the read of a demand's record samples as it begins (R123; assumption 7). -/
theorem checkDemand_samples (d : Demand) (c : Settings) :
    (checkDemand d).steps.samples c [] =
      if c.pointCount.toNat ≤ d.point.toNat then [c.pointCount] else [c.pointCount, c.pointBase] := by
  by_cases h : c.pointCount.toNat ≤ d.point.toNat <;>
    simp [checkDemand, checkPoint, checkRecord, readPoint, Reading.steps, Reading.map, Reading.samples,
      Settings.pointRegister, h]

/-- The demand whose read begins is the one of the list that is IN FLIGHT. -/
theorem State.beginDemandRead {s : State} {d : Demand} {n : Nat} (hp : s.eng.phase = .demandReading n)
    (hd : s.demandInFlight = some d) :
    s.beginEngineRead =
      { s with
        traffic :=
          { s.traffic with
            engine := some
              (if s.set.pointCount.toNat ≤ d.point.toNat then [s.set.pointCount]
              else [s.set.pointCount, s.set.pointBase]) } } := by
  have hreading : s.engineReading = (checkDemand d).steps := by rw [State.engineReading, hp, hd]
  rw [State.beginEngineRead, hreading, checkDemand_samples]

/-- A taken demand is handed over where a trunk is READY (R50, R123). -/
theorem State.needTrunkForDemand_ready {s : State} (h : someReady s) (d : Demand) (r : PointRecord) (n : Nat) :
    s.needTrunkForDemand d r n = s.handOverDemand d r n := by
  have hr : s.anyReady = true := by simpa [State.anyReady, State.ready, State.trunk] using h
  exact if_pos hr

/-- It returns to WAITING where none is (R124). -/
theorem State.needTrunkForDemand_waits {s : State} (h : ¬someReady s) (d : Demand) (r : PointRecord) (n : Nat) :
    s.needTrunkForDemand d r n = (waitingAgain s).needTrunk (fun s => s) := by
  have hr : ¬s.anyReady = true := by simpa [State.anyReady, State.ready, State.trunk] using h
  exact if_neg hr

/-- Settles O33: the first servable demand is taken, and the end of its read case by case. -/
theorem openSlotServesTheFirstEligibleDemand : Obligations.OpenSlotServesTheFirstEligibleDemand := by
  refine ⟨fun s d => ?eligible, ?take, ?read⟩
  case eligible =>
    rw [State.eligible, Bool.or_eq_true, decide_eq_true_iff]
    refine or_congr Iff.rfl ?_
    cases (s.station d.station).state <;> simp [StationState.called]
  case take =>
    rintro s₀ s r e n start before after d rfl hphase hr he hstart hg hready hw hlist hwaits hbefore hd
    rw [exec_slotRead hphase, ← hr]
    generalize s₀.served = s at *
    have honly : OnlyTraffic s r := hr ▸ s.engineReadsOn_only 4700
    have hsame : OnlyTraffic s e := honly.trans (he ▸ r.endEngineRead_only)
    have hread : r.slotChecked n = e.slotWork start n := by
      rw [he]
      refine State.slotChecked_open n ?_ ?_
      · rw [honly]
        exact (congrArg (fun u : State => u.engineFinds (recheckSlot s.activeBase s.eng.slot)) honly.symm).trans hstart
      · rw [gateRuns, honly]
        exact hg
    have hset : e.set = s.set := by rw [hsame]
    have hservable : e.servable d = true := by
      rw [hsame.eligible.2, State.servable, hd, hwaits d (by simp [hlist])]
      rfl
    have hbefore' : ∀ b ∈ before, e.servable b = false := fun b hb => by
      rw [hsame.eligible.2, State.servable, hbefore b hb, Bool.and_false]
    have hdemands : e.demands = before ++ d :: after := by
      rw [hsame]
      exact hlist
    have htake : takeFirst e.servable e.demands = some (d, before ++ { d with inFlight := true } :: after) := by
      rw [hdemands, takeFirst_of_first after hbefore' hservable]
    have hany : e.demands.any e.servable = true := List.any_eq_true.mpr ⟨d, by simp [hdemands], hservable⟩
    have hwork : e.slotWork start n = e.takeDemand := by
      rw [State.slotWork, hw]
      dsimp only
      rw [State.openSlot, if_pos hany, State.needTrunk_ready (hsame.trunks.1 hready)]
    have hfirst : (before ++ { d with inFlight := true } :: after).find? (·.inFlight) = some { d with inFlight := true } := by
      rw [List.find?_append, List.find?_eq_none.mpr fun b hb => by simp [hwaits b (by simp [hlist, hb])]]
      rfl
    rw [hread, hwork, State.takeDemand, htake]
    dsimp only
    rw [State.beginDemandRead (s :=
      { e with
        demands := before ++ { d with inFlight := true } :: after
        eng := { e.eng with phase := .demandReading e.set.demandRetries.toNat } }) rfl hfirst, hset]
  case read =>
    rintro s₀ s r e n d rfl hphase hr he hd
    rw [exec_demandRead hphase, ← hr]
    generalize s₀.served = s at *
    have honly : OnlyTraffic s r := hr ▸ s.engineReadsOn_only 4700
    have hsame : OnlyTraffic s e := honly.trans (he ▸ r.endEngineRead_only)
    have hflight : r.demandInFlight = some d := by
      rw [State.demandInFlight, honly]
      exact hd
    have heligible : r.eligible = s.eligible := honly.eligible.1
    obtain ⟨hsome, htraining, hnone⟩ := hsame.trunks
    have hwaiting : ∀ u : State, u.returnDemand = waitingAgain u := fun _ => rfl
    have hdemands : e.demands = s.demands := by rw [hsame]
    rw [State.demandChecked, hflight]
    dsimp only
    refine ⟨fun code hcode => ?_, fun record hrecord => ⟨fun hel => ?_, fun hel ht => ?_, fun hel ht => ?_,
      fun hel ht h63 => ?_, fun hel ht h63 => ?_⟩⟩
    · rw [hcode, ← he, ← hdemands]
      rfl
    all_goals
      rw [hrecord, heligible, hel, ← he]
      dsimp only
    · rfl
    · rw [if_pos rfl, State.needTrunkForDemand_waits (htraining ht).1]
      exact congrArg _ (State.needTrunk_training (s := waitingAgain e) (htraining ht) _)
    · rw [if_pos rfl, State.needTrunkForDemand_waits (hnone ht).1]
      exact congrArg _ (State.needTrunk_none (s := waitingAgain e) (hnone ht) _)
    · rw [if_pos rfl, State.needTrunkForDemand_ready (hsome ht), State.handOverDemand, ← firstOf_congr hsame.trunk,
        if_pos (c := record.station = Config.broadcastStation) h63, State.handOverBroadcast_eq]
    · rw [if_pos rfl, State.needTrunkForDemand_ready (hsome ht), State.handOverDemand, ← firstOf_congr hsame.trunk,
        ← hsame.station, if_neg (c := record.station = Config.broadcastStation) h63, State.handOverPoint_eq]

end Sys2Proof.Machine
end

section
/-! The commands that read records: how they are taken (R14, R15, R110, R119), the cancelled switch (R17), and the reads
themselves, whose words are judged as they were read and which all come to their end (R9, R169). -/

namespace Sys2Proof.Machine

open Sys2Proof.Safety

/-! ## Operands -/

/-- A number of eight bits. -/
theorem byteOf_some {w : Word} (h : w.toNat ≤ 255) : byteOf w = some (BitVec.ofNat 8 w.toNat) := if_pos h

/-- A number above 255. -/
theorem byteOf_none {w : Word} (h : 255 < w.toNat) : byteOf w = none := if_neg (by omega)

/-- A number of eight bits is itself. -/
theorem toNat_ofByte {n : Nat} (h : n ≤ 255) : (BitVec.ofNat 8 n).toNat = n := Nat.mod_eq_of_lt (by omega)

/-- No bank has an operand above 1. -/
theorem bankOfOperand_none {w : Word} (h : 1 < w.toNat) : bankOfOperand w = none := by
  unfold bankOfOperand
  split <;> first | rfl | omega

/-! ## SWITCH PLAN and VALIDATE PLAN -/

/-- A command taken that goes on reading. -/
theorem State.beginCommandRead_taken {s : State} (code : Word) (work : CommandWork) (got : List Word)
    (h : (busyWith s code work).commandReading.samples s.set [] = got) :
    ((taken s code).holdCommand work).beginCommandRead = reading (busyWith s code work) got := by
  have hheld : (taken s code).holdCommand work = busyWith s code work := rfl
  rw [hheld, State.beginCommandRead, reading, ← h]
  rfl

/-- A validation begins with no word read (R9). -/
theorem State.beginValidation_taken (s : State) (code : Word) (forSwitch : Bool) (bank : Bank) :
    (taken s code).beginValidation forSwitch bank =
      reading (busyWith s code (.validation forSwitch bank (s.set.planBase bank).toNat)) [] :=
  State.beginCommandRead_taken code _ [] rfl

/-- The operand names the bank, whose base is captured (R9). -/
theorem planBase_of_operand {s : State} {bank : Bank} {base : Nat}
    (h : (s.cmd.args.arg0 = 0 ∧ bank = .a ∧ base = s.set.planABase.toNat) ∨
      (s.cmd.args.arg0 = 1 ∧ bank = .b ∧ base = s.set.planBBase.toNat)) :
    bankOfOperand s.cmd.args.arg0 = some bank ∧ s.cmd.args.arg0 ≠ cancelOperand ∧ base = (s.set.planBase bank).toNat := by
  obtain ⟨h, rfl, rfl⟩ | ⟨h, rfl, rfl⟩ := h <;> rw [h] <;> exact ⟨rfl, by decide, rfl⟩

/-- A cancelled switch, taken (R17). -/
theorem State.cancelSwitch_taken (s : State) :
    (s.eng.pending ≠ none →
      (taken s 0x0010).cancelSwitch = completed { s with eng := { s.eng with pending := none } } 0x0010 .done 0) ∧
    (s.eng.pending = none → (taken s 0x0010).cancelSwitch = completed s 0x0010 .notFound 0) := by
  unfold State.cancelSwitch
  cases hp : s.eng.pending with
  | none => exact ⟨fun h => absurd rfl h, fun _ => by rw [show (taken s 0x0010).eng.pending = none from hp]; rfl⟩
  | some g => exact ⟨fun _ => by rw [show (taken s 0x0010).eng.pending = some g from hp]; rfl, nofun⟩

/-- Settles O35: both rows come to `cancelSwitch`. -/
theorem cancelRemovesThePendingSwitch : Obligations.CancelRemovesThePendingSwitch := by
  rintro s₀ s c rfl hready hc
  have hexec : exec c s₀ = .next (taken s₀.served 0x0010).cancelSwitch := by
    obtain rfl | ⟨rfl, harg⟩ := hc
    · exact congrArg _ (State.takeCommand_ready _ _ hready.1 hready.2)
    · rw [exec_command (c := .switchPlan) rfl hready]
      exact congrArg _ (if_pos harg)
  obtain ⟨hsome, hnone⟩ := s₀.served.cancelSwitch_taken
  rw [hexec]
  exact ⟨fun h => congrArg _ (hsome h), fun h => congrArg _ (hnone h)⟩

/-! ## Commands of points and demands -/

/-- A point command whose number is a point's holds the unit (R110). -/
theorem State.pointCommand_taken {s : State} (code : Word) (command : PointCommand) (h : s.cmd.args.arg0.toNat ≤ 255)
    (hlt : s.cmd.args.arg0.toNat < s.set.pointCount.toNat) :
    (taken s code).pointCommand command =
      reading (busyWith s code (.pointRead command (BitVec.ofNat 8 s.cmd.args.arg0.toNat))) [s.set.pointBase] := by
  have hbyte : byteOf (taken s code).cmd.args.arg0 = some (BitVec.ofNat 8 s.cmd.args.arg0.toNat) := byteOf_some h
  have hcount : (taken s code).set.pointCount = s.set.pointCount := rfl
  rw [State.pointCommand, hbyte]
  dsimp only
  rw [hcount, toNat_ofByte h, if_neg (by omega)]
  exact State.beginCommandRead_taken code _ _ rfl

/-- Any other is refused with detail 1 (R110). -/
theorem State.pointCommand_refused {s : State} (code : Word) (command : PointCommand)
    (h : 255 < s.cmd.args.arg0.toNat ∨ s.set.pointCount.toNat ≤ s.cmd.args.arg0.toNat) :
    (taken s code).pointCommand command = completed s code .badOperand 1 := by
  by_cases hbyte : s.cmd.args.arg0.toNat ≤ 255
  · have hsome : byteOf (taken s code).cmd.args.arg0 = some (BitVec.ofNat 8 s.cmd.args.arg0.toNat) := byteOf_some hbyte
    have hcount : (taken s code).set.pointCount = s.set.pointCount := rfl
    rw [State.pointCommand, hsome]
    dsimp only
    rw [hcount, toNat_ofByte hbyte, if_pos (by omega)]
    rfl
  · have hnone : byteOf (taken s code).cmd.args.arg0 = none := byteOf_none (Nat.lt_of_not_le hbyte)
    rw [State.pointCommand, hnone]
    rfl

/-- A post whose arguments are legal is judged by the point's number (R119). -/
theorem State.demandPost_legal {s : State} (h0 : s.cmd.args.arg0.toNat ≤ 255) (h1 : s.cmd.args.arg1.toNat ≤ 1)
    (h2 : s.cmd.args.arg2.toNat ≤ 255) (h3 : s.cmd.args.arg3.toNat ≤ 255) :
    s.demandPost =
      if s.set.pointCount.toNat ≤ s.cmd.args.arg0.toNat then s.complete .badOperand (codeIndex 13 s.cmd.args.arg0.toNat)
      else
        (s.holdCommand (.postCheck (BitVec.ofNat 8 s.cmd.args.arg0.toNat) (s.cmd.args.arg1.toNat == 1)
          s.cmd.args.arg2.toNat (BitVec.ofNat 8 s.cmd.args.arg3.toNat))).beginCommandRead := by
  unfold State.demandPost
  dsimp only
  rw [byteOf_some h0, byteOf_some h2, byteOf_some h3]
  dsimp only
  rw [if_neg (by omega), toNat_ofByte h0, toNat_ofByte h2]

/-- A post with an argument out of its range is refused with detail 0 (R119). -/
theorem State.demandPost_illegal {s : State} (h : 255 < s.cmd.args.arg0.toNat ∨ 1 < s.cmd.args.arg1.toNat ∨
    255 < s.cmd.args.arg2.toNat ∨ 255 < s.cmd.args.arg3.toNat) : s.demandPost = s.complete .badOperand 0 := by
  unfold State.demandPost
  dsimp only
  split
  next p deadline tag h0 h2 h3 =>
    refine if_pos ?_
    by_contra h1
    obtain h | h | h | h := h
    · exact nomatch h0.symm.trans (byteOf_none h)
    · exact h1 h
    · exact nomatch h2.symm.trans (byteOf_none h)
    · exact nomatch h3.symm.trans (byteOf_none h)
  next => rfl

/-- Settles O34: the plan commands, the point commands and the post, each as it is taken. -/
theorem readingCommandsAreHeld : Obligations.ReadingCommandsAreHeld := by
  rintro s₀ s rfl hready
  rw [exec_command (c := .switchPlan) rfl hready, exec_command (c := .validatePlan) rfl hready,
    exec_command (c := .pointHold) rfl hready, exec_command (c := .pointRelease) rfl hready,
    exec_command (c := .pointCommit) rfl hready, exec_command (c := .demandPost) rfl hready]
  generalize s₀.served = s
  have hswitch : (taken s 0x0010).act 0x0010 = (taken s 0x0010).switchPlan := rfl
  have hvalidate : (taken s 0x0011).act 0x0011 = (taken s 0x0011).validatePlan := rfl
  have hpost : (taken s 0x0040).act 0x0040 = (taken s 0x0040).demandPost := rfl
  rw [hswitch, hvalidate, hpost]
  refine ⟨fun bank base h => ?plan, fun h => ?switchOperand, fun h => ?validateOperand, ?point, fun h => ?pointOperand,
    fun h => congrArg _ (State.demandPost_illegal (s := taken s 0x0040) h), fun h0 h1 h2 h3 => ?post⟩
  case plan =>
    obtain ⟨hbank, hcancel, rfl⟩ := planBase_of_operand h
    have hsome : bankOfOperand (taken s 0x0010).cmd.args.arg0 = some bank := hbank
    have hsome' : bankOfOperand (taken s 0x0011).cmd.args.arg0 = some bank := hbank
    rw [State.switchPlan, if_neg (c := (taken s 0x0010).cmd.args.arg0 = cancelOperand) hcancel, hsome,
      State.validatePlan, hsome', ← State.beginValidation_taken, ← State.beginValidation_taken]
    refine ⟨fun hp => congrArg _ (if_neg ?_), fun hp => congrArg _ (if_pos (Option.isSome_iff_ne_none.mpr hp)), rfl⟩
    exact fun hsome => Option.isSome_iff_ne_none.mp hsome hp
  case switchOperand =>
    have hcancel : s.cmd.args.arg0 ≠ cancelOperand := fun e => by simp [e, cancelOperand] at h
    have hnone : bankOfOperand (taken s 0x0010).cmd.args.arg0 = none :=
      bankOfOperand_none (w := s.cmd.args.arg0) (by omega)
    rw [State.switchPlan, if_neg (c := (taken s 0x0010).cmd.args.arg0 = cancelOperand) hcancel, hnone]
    rfl
  case validateOperand =>
    have hnone : bankOfOperand (taken s 0x0011).cmd.args.arg0 = none := bankOfOperand_none (w := s.cmd.args.arg0) h
    rw [State.validatePlan, hnone]
    rfl
  case point =>
    rintro ⟨h, hlt⟩ p rfl
    exact ⟨congrArg _ (State.pointCommand_taken _ .hold h hlt), congrArg _ (State.pointCommand_taken _ .release h hlt),
      congrArg _ (State.pointCommand_taken _ .commit h hlt)⟩
  case pointOperand =>
    exact ⟨congrArg _ (State.pointCommand_refused _ .hold h), congrArg _ (State.pointCommand_refused _ .release h),
      congrArg _ (State.pointCommand_refused _ .commit h)⟩
  case post =>
    rw [State.demandPost_legal (s := taken s 0x0040) h0 h1 h2 h3]
    refine ⟨fun hcount => ?_, fun hlt => ?_⟩
    · rw [if_pos (c := (taken s 0x0040).set.pointCount.toNat ≤ (taken s 0x0040).cmd.args.arg0.toNat) hcount]
      have hdetail : codeIndex 13 s.cmd.args.arg0.toNat = BitVec.ofNat 16 (13 * 1024 + s.cmd.args.arg0.toNat) :=
        congrArg (BitVec.ofNat 16) (by omega)
      rw [← hdetail]
      rfl
    · rw [if_neg (c := (taken s 0x0040).set.pointCount.toNat ≤ (taken s 0x0040).cmd.args.arg0.toNat)
        (by exact Nat.not_le.mpr hlt)]
      exact congrArg _ (State.beginCommandRead_taken _ _ _ rfl)

end Sys2Proof.Machine
end

section
/-! Reads word by word: what a read leaves to do once it has got some words, and reads that end within a number of words
with a value that has a property. From one such fact per read come both that every read of the engine and of a command
comes to its end (O36), and what holds of a value whatever was written meanwhile (O37). -/

namespace Sys2Proof.Machine

open Sys2Proof.Safety

/-! ## What has been fetched is what stands -/

/-- The registers that a read samples are those it would read now. -/
theorem Reading.value_samples {α : Type} (r : Reading α) (c : Settings) (m : Ram) (got : List Word) :
    r.value c m (got ++ r.samples c got) = r.value c m got := by
  induction r generalizing got with
  | done _ => cases got <;> rfl
  | register p next ih => cases got with
    | nil => exact ih _ []
    | cons w rest => exact ih w rest
  | word a next ih => cases got with
    | nil => rfl
    | cons w rest => exact ih w rest

/-- The word that a read asks for is the one it would read now. -/
theorem Reading.value_word {α : Type} {r : Reading α} {m : Ram} {got : List Word} {a : Nat} (c : Settings)
    (h : r.wants got = some a) : r.value c m (got ++ [m.read a]) = r.value c m got := by
  induction r generalizing got with
  | done _ => cases got <;> exact nomatch h
  | register p next ih => cases got with
    | nil => exact nomatch h
    | cons w rest => exact ih w h
  | word b next ih => cases got with
    | nil => cases h; rfl
    | cons w rest => exact ih w h

/-- A read that has ended sees no later write. -/
theorem Reading.value_of_ended {α : Type} {r : Reading α} {c : Settings} {got : List Word} (hwants : r.wants got = none)
    (hsamples : r.samples c got = []) (m : Ram) (c' : Settings) (m' : Ram) : r.value c' m' got = r.value c m got := by
  induction r generalizing got with
  | done _ => cases got <;> rfl
  | register p next ih => cases got with
    | nil => exact nomatch hsamples
    | cons w rest => exact ih w hwants hsamples
  | word b next ih => cases got with
    | nil => exact nomatch hwants
    | cons w rest => exact ih w hwants hsamples

/-! ## Reads at one moment -/

/-- Two reads, one after the other, at one moment. -/
theorem Reading.value_andThen {ε α β : Type} (r : Reading (Except ε α)) (f : α → Reading (Except ε β)) (c : Settings)
    (m : Ram) : (r.andThen f).value c m [] = (r.value c m []).bind (fun v => (f v).value c m []) := by
  induction r with
  | done v => cases v <;> rfl
  | register p next ih => exact ih _
  | word a next ih => exact ih _

/-! ## Reads that end -/

/-- The read asks for at most `n` words, whatever it gets, and ends with a value that has the property. -/
def Reading.Ends {α : Type} (Q : α → Prop) (r : Reading α) (n : Nat) : Prop :=
  match r, n with
  | .done v, _ => Q v
  | .register _ next, n => ∀ w, (next w).Ends Q n
  | .word _ _, 0 => False
  | .word _ next, n + 1 => ∀ w, (next w).Ends Q n

/-- What a read leaves to do once it has got the given words. -/
def Reading.after {α : Type} (r : Reading α) (got : List Word) : Reading α :=
  match r, got with
  | .register _ next, w :: rest => (next w).after rest
  | .word _ next, w :: rest => (next w).after rest
  | r, [] => r
  | .done v, _ => .done v

/-- The property of the values, when a check that fails has none. -/
def IfOk {ε α : Type} (Q : α → Prop) (v : Except ε α) : Prop := ∀ a, v = .ok a → Q a

section

variable {α β ε : Type} {Q : α → Prop} {r : Reading α} {n : Nat}

theorem Reading.after_nil (r : Reading α) : r.after [] = r := by cases r <;> rfl

theorem Reading.after_append (r : Reading α) (got more : List Word) : r.after (got ++ more) = (r.after got).after more := by
  induction r generalizing got with
  | done _ => cases got <;> cases more <;> rfl
  | register p next ih => cases got with
    | nil => rfl
    | cons w rest => exact ih w rest
  | word b next ih => cases got with
    | nil => rfl
    | cons w rest => exact ih w rest

theorem Reading.wants_after (r : Reading α) (got : List Word) : (r.after got).wants [] = r.wants got := by
  induction r generalizing got with
  | done _ => cases got <;> rfl
  | register p next ih => cases got with
    | nil => rfl
    | cons w rest => exact ih w rest
  | word b next ih => cases got with
    | nil => rfl
    | cons w rest => exact ih w rest

theorem Reading.Ends.mono {k : Nat} (h : r.Ends Q n) (hle : n ≤ k) : r.Ends Q k := by
  induction r generalizing n k with
  | done v => exact h
  | register p next ih => exact fun w => ih w (h w) hle
  | word a next ih =>
    obtain ⟨n, rfl⟩ : ∃ j, n = j + 1 := Nat.exists_eq_succ_of_ne_zero (by rintro rfl; exact h)
    obtain ⟨k, rfl⟩ : ∃ j, k = j + 1 := Nat.exists_eq_succ_of_ne_zero (by omega)
    exact fun w => ih w (h w) (by omega)

theorem Reading.Ends.imp {P : α → Prop} (h : r.Ends Q n) (himp : ∀ v, Q v → P v) : r.Ends P n := by
  induction r generalizing n with
  | done v => exact himp v h
  | register p next ih => exact fun w => ih w (h w)
  | word a next ih =>
    obtain ⟨n, rfl⟩ : ∃ j, n = j + 1 := Nat.exists_eq_succ_of_ne_zero (by rintro rfl; exact h)
    exact fun w => ih w (h w)

/-- Each word got is one fewer to come. -/
theorem Reading.Ends.word {a : Nat} (h : r.Ends Q (n + 1)) (hwants : r.wants [] = some a) (w : Word) :
    (r.after [w]).Ends Q n := by
  cases r with
  | done v => exact nomatch hwants
  | register p next => exact nomatch hwants
  | word b next => exact (Reading.after_nil (next w)).symm ▸ h w

theorem Reading.Ends.after (h : r.Ends Q n) (got : List Word) : (r.after got).Ends Q n := by
  induction r generalizing got n with
  | done v => cases got <;> exact h
  | register p next ih => cases got with
    | nil => exact h
    | cons w rest => exact ih w (h w) rest
  | word b next ih => cases got with
    | nil => exact h
    | cons w rest =>
      obtain ⟨n, rfl⟩ : ∃ j, n = j + 1 := Nat.exists_eq_succ_of_ne_zero (by rintro rfl; exact h)
      exact (ih w (h w) rest).mono (Nat.le_succ n)

/-- No word is left to read. -/
theorem Reading.Ends.wants (h : r.Ends Q 0) : r.wants [] = none := by
  cases r with
  | done v => rfl
  | register p next => rfl
  | word b next => exact h.elim

/-- The value has the property, whatever words were got. -/
theorem Reading.Ends.value (h : r.Ends Q n) (c : Settings) (m : Ram) (got : List Word) : Q (r.value c m got) := by
  induction r generalizing got n with
  | done v => cases got <;> exact h
  | register p next ih => cases got with
    | nil => exact ih _ (h _) []
    | cons w rest => exact ih w (h w) rest
  | word b next ih =>
    obtain ⟨n, rfl⟩ : ∃ j, n = j + 1 := Nat.exists_eq_succ_of_ne_zero (by rintro rfl; exact h)
    cases got with
    | nil => exact ih _ (h _) []
    | cons w rest => exact ih w (h w) rest

theorem Reading.Ends.map {f : α → β} {P : β → Prop} (h : r.Ends (fun v => P (f v)) n) : (r.map f).Ends P n := by
  induction r generalizing n with
  | done v => exact h
  | register p next ih => exact fun w => ih w (h w)
  | word a next ih =>
    obtain ⟨n, rfl⟩ : ∃ j, n = j + 1 := Nat.exists_eq_succ_of_ne_zero (by rintro rfl; exact h)
    exact fun w => ih w (h w)

/-- A read that goes on after another ends within the words of both. -/
theorem Reading.Ends.andThen {r : Reading (Except ε α)} {f : α → Reading (Except ε β)} {P : β → Prop} {k : Nat}
    (h : r.Ends (IfOk Q) n) (hf : ∀ v, Q v → (f v).Ends (IfOk P) k) : (r.andThen f).Ends (IfOk P) (n + k) := by
  induction r generalizing n with
  | done v => cases v with
    | error e => exact nofun
    | ok v => exact (hf v (h v rfl)).mono (Nat.le_add_left k n)
  | register p next ih => exact fun w => ih w (h w)
  | word a next ih =>
    obtain ⟨n, rfl⟩ : ∃ j, n = j + 1 := Nat.exists_eq_succ_of_ne_zero (by rintro rfl; exact h)
    rw [Nat.succ_add]
    exact fun w => ih w (h w)

end

/-! ## The reads of points and slots end -/

theorem IfOk.error {ε α : Type} {Q : α → Prop} (e : ε) : IfOk Q (.error e) := nofun

theorem IfOk.ok {ε α : Type} {Q : α → Prop} {a : α} (h : Q a) : IfOk (ε := ε) Q (.ok a) := fun _ e => by
  cases e
  exact h

theorem IfOk.map {ε α β : Type} {P : α → Prop} {Q : β → Prop} {f : α → β} {v : Except ε α} (h : IfOk P v)
    (hf : ∀ a, P a → Q (f a)) : IfOk Q (v.map f) := by
  cases v with
  | error e => exact nofun
  | ok a => exact IfOk.ok (hf a (h a rfl))

theorem readPages_ends {α : Type} {Q : α → Prop} {used : Bool} {a n : Nat} {next : Word → Word → Reading α}
    (h : ∀ p q, (next p q).Ends Q n) : (readPages used a next).Ends Q (n + 2) := by
  unfold readPages
  split
  · exact fun p q => h p q
  · exact (h 0 0).mono (Nat.le_add_right n 2)

/-- A point record has seven words. -/
theorem readPoint_ends (a : Nat) : (readPoint a).Ends (fun _ => True) 7 := by
  intro w0
  dsimp only
  split
  · trivial
  · intro w1 w2
    dsimp only
    split
    · exact readPages_ends fun _ _ => readPages_ends (n := 0) fun _ _ => trivial
    · trivial

theorem checkRecord_ends (p : BitVec 8) : (checkRecord p).Ends (fun _ => True) 7 := fun _ => readPoint_ends _

theorem checkPoint_ends (p : BitVec 8) : (checkPoint p).Ends (fun _ => True) 7 := by
  intro count
  dsimp only
  split
  · trivial
  · exact checkRecord_ends p

theorem checkDemand_ends (d : Demand) : (checkDemand d).Ends (fun _ => True) 7 := (checkPoint_ends d.point).map

theorem readPointHead_ends (p : BitVec 8) : (readPointHead p).Ends (fun _ => True) 2 := fun _ _ _ => trivial

theorem readSlot_ends (base i : Nat) : (readSlot base i).Ends (fun _ => True) 2 := by
  intro w0
  dsimp only
  split
  · exact fun _ => trivial
  · trivial

theorem slotRead_ends (base i : Nat) : ((readSlot base i).map (slotFailure i)).Ends (IfOk fun _ => True) 2 :=
  ((readSlot_ends base i).imp fun _ _ _ _ => trivial).map

theorem pointRead_ends (slot : Nat) (p : BitVec 8) :
    ((checkPoint p).map (pointFailure slot p)).Ends (IfOk fun _ => True) 7 :=
  ((checkPoint_ends p).imp fun _ _ _ _ => trivial).map

theorem recheckSlot_ends (base i : Nat) : (recheckSlot base i).Ends (fun _ => True) 9 := by
  refine ((slotRead_ends base i).andThen (P := fun _ => True) (k := 7) fun record _ => ?_).imp fun _ _ => trivial
  split
  · exact ((pointRead_ends i _).imp fun _ _ _ _ => trivial).map
  · exact fun _ _ => trivial

/-! ## The validation of a bank ends with a legal geometry -/

/-- A header in the ranges of Table 1-5. -/
structure PlanHeader.Legal (h : PlanHeader) : Prop where
  rounds : 1 ≤ h.roundCount ∧ h.roundCount ≤ 64
  period : 10 ≤ h.roundPeriod ∧ h.roundPeriod ≤ 65535
  window : 4 ≤ h.answerWindow ∧ h.answerWindow ≤ 255
  slots : h.slotTotal ≤ 512

theorem checkHeader_ends (base : Nat) : (checkHeader base).Ends (IfOk PlanHeader.Legal) 5 := by
  intro w0
  dsimp only
  split
  · exact IfOk.error _
  next h0 =>
  intro w1
  dsimp only
  split
  · exact IfOk.error _
  next h1 =>
  intro w2
  dsimp only
  split
  · exact IfOk.error _
  next h2 =>
  intro w3
  dsimp only
  split
  · exact IfOk.error _
  next policy _ =>
  intro w4
  dsimp only
  split
  · exact IfOk.error _
  next h4 =>
  have h0 : ¬(w0 = 0 ∨ 64 < w0.toNat) := by simpa using h0
  have hzero : 1 ≤ w0.toNat := Nat.pos_of_ne_zero fun e => h0 (.inl (BitVec.eq_of_toNat_eq e))
  have hw1 := w1.isLt
  have h2 : ¬(w2.toNat < 4 ∨ 255 < w2.toNat) := by simpa using h2
  exact IfOk.ok ⟨by dsimp only; omega, by dsimp only; omega, by dsimp only; omega, by dsimp only; omega⟩

/-- The entries partition the slots from `sum` to `total - 1` into rounds in ascending order (R3). -/
structure Partitions (directory : List DirectoryEntry) (sum total rounds : Nat) : Prop where
  length : directory.length = rounds
  total : sum + (directory.map (·.count)).sum = total
  entries : ∀ (r : Nat) (entry : DirectoryEntry), directory[r]? = some entry →
    entry.count ≤ 64 ∧ (1 ≤ entry.count → entry.first = sum + ((directory.take r).map (·.count)).sum)

theorem Partitions.nil (sum : Nat) : Partitions [] sum sum 0 := ⟨rfl, rfl, nofun⟩

theorem Partitions.cons {entry : DirectoryEntry} {directory : List DirectoryEntry} {sum total rounds : Nat}
    (h : Partitions directory (sum + entry.count) total rounds) (hcount : entry.count ≤ 64)
    (hfirst : 1 ≤ entry.count → entry.first = sum) : Partitions (entry :: directory) sum total (rounds + 1) where
  length := congrArg Nat.succ h.length
  total := by
    have := h.total
    simp only [List.map_cons, List.sum_cons]
    omega
  entries := by
    intro r e he
    cases r with
    | zero =>
      cases he
      exact ⟨hcount, fun h1 => hfirst h1⟩
    | succ r =>
      obtain ⟨hc, hf⟩ := h.entries r e he
      refine ⟨hc, fun h1 => (hf h1).trans ?_⟩
      simp only [List.take_succ_cons, List.map_cons, List.sum_cons]
      omega

theorem checkDirectory_ends (base total r sum rounds : Nat) :
    (checkDirectory base total r sum rounds).Ends (IfOk fun d => Partitions d sum total rounds) rounds := by
  induction rounds generalizing r sum with
  | zero =>
    show IfOk _ (if sum = total then _ else _)
    split
    next h => exact IfOk.ok (h ▸ Partitions.nil sum)
    next => exact IfOk.error _
  | succ rest ih =>
    intro w
    dsimp only
    split
    · exact IfOk.error _
    next hcount =>
    split
    · exact IfOk.error _
    next hfirst =>
    refine ((ih (r + 1) (sum + (directoryOf w).count)).imp fun v hv => hv.map fun d hd => ?_).map
    exact hd.cons (by omega) fun h1 => not_not.mp fun hne => hfirst ⟨h1, hne⟩

/-- At most one TRANSFER slot for each slot. -/
theorem checkSlots_ends (base i slots : Nat) :
    (checkSlots base i slots).Ends (IfOk fun named => named.length ≤ slots) (2 * slots) := by
  induction slots generalizing i with
  | zero => exact IfOk.ok (Nat.le_refl 0)
  | succ rest ih =>
    rw [Nat.mul_succ, Nat.add_comm (2 * rest)]
    refine (slotRead_ends base i).andThen fun record _ => ?_
    split
    · refine Reading.Ends.map ((ih (i + 1)).imp fun v hv => ?_)
      exact hv.map fun _ hd => Nat.succ_le_succ hd
    · exact (ih (i + 1)).imp fun v hv a ha => Nat.le_succ_of_le (hv a ha)

theorem checkPoints_ends (named : List (Nat × BitVec 8)) :
    (checkPoints named).Ends (IfOk fun _ => True) (7 * named.length) := by
  induction named with
  | nil => exact IfOk.ok trivial
  | cons entry rest ih =>
    rw [List.length_cons, Nat.mul_succ, Nat.add_comm]
    exact (pointRead_ends entry.1 entry.2).andThen fun _ _ => ih

/-- A geometry that validation may keep: a legal header, and a directory that partitions its slots (Table 1-5, R3). -/
structure Geometry.Legal (g : Geometry) (bank : Bank) (base : Nat) : Prop where
  bank : g.bank = bank
  base : g.base = base
  rounds : 1 ≤ g.roundCount ∧ g.roundCount ≤ 64
  period : 10 ≤ g.roundPeriod ∧ g.roundPeriod ≤ 65535
  window : 4 ≤ g.answerWindow ∧ g.answerWindow ≤ 255
  slots : g.slotTotal ≤ 512
  directory : Partitions g.directory 0 g.slotTotal g.roundCount

/-- Validation reads at most 4,677 words: 5 of the header, 64 of the directory, 1,024 of slot records, and 7 words for
each of 512 points. -/
theorem validateBank_ends (bank : Bank) (base : Nat) :
    (validateBank bank base).Ends (IfOk fun g : Geometry => g.Legal bank base) 4677 := by
  refine (checkHeader_ends base).andThen (k := 4672) fun h hlegal => ?_
  obtain ⟨hrounds, hperiod, hwindow, hslots⟩ := hlegal
  have hdirectory := (checkDirectory_ends base h.slotTotal 0 0 h.roundCount).mono hrounds.2
  refine hdirectory.andThen (k := 4608) fun directory hpartition => ?_
  have hslotsRead := (checkSlots_ends base 0 h.slotTotal).mono (Nat.mul_le_mul_left 2 hslots)
  refine hslotsRead.andThen (k := 3584) fun named hnamed => ?_
  have hpoints := (checkPoints_ends named).mono (Nat.mul_le_mul_left 7 (Nat.le_trans hnamed hslots))
  exact (hpoints.imp fun v hv => hv.map fun _ _ => ⟨rfl, rfl, hrounds, hperiod, hwindow, hslots, hpartition⟩).map

end Sys2Proof.Machine
end

section
/-! The reads of the engine and of a held command go on to their end, and what PLAN_VALIDATION_DONE makes of the words of
a bank (O36). -/

namespace Sys2Proof.Machine

open Sys2Proof.Safety

/-! ## Grants to a read -/

/-- What the accesses of the others leave alone stays until a requester's turn. -/
theorem State.untilTurn_keeps {β : Type} (f : State → β) {r : Requester} (h : ∀ (q : Requester) (t : State), q ≠ r →
    f (t.grant q) = f t) (s : State) (n : Nat) : f (s.untilTurn r n) = f s := by
  induction n generalizing s with
  | zero => rfl
  | succ k ih =>
    unfold State.untilTurn
    split
    · split
      · rfl
      next hne => exact (ih _).trans (h _ s hne)
    · rfl

/-- Only a grant to the event writer moves anything of the traffic but a read's own words. -/
theorem State.grant_engine_other (q : Requester) (t : State) (h : q ≠ .engine) :
    (t.grant q).traffic.engine = t.traffic.engine := by
  cases q with
  | engine => exact absurd rfl h
  | command => rfl
  | eventWriter =>
    unfold State.grant State.access State.storeEventWord
    dsimp only
    split <;> rfl
  | hostPort => rfl

/-- Only a grant to the Command Unit moves the words of a command's read. -/
theorem State.grant_command_other (q : Requester) (t : State) (h : q ≠ .command) :
    (t.grant q).traffic.command = t.traffic.command := by
  cases q with
  | command => exact absurd rfl h
  | engine => rfl
  | eventWriter =>
    unfold State.grant State.access State.storeEventWord
    dsimp only
    split <;> rfl
  | hostPort => rfl

theorem OnlyTraffic.engineReading {s r : State} (h : OnlyTraffic s r) : r.engineReading = s.engineReading := by
  rw [h]
  rfl

theorem OnlyTraffic.commandReading {s r : State} (h : OnlyTraffic s r) : r.commandReading = s.commandReading := by
  rw [h]
  rfl

/-- A word fetched is one fewer to come. -/
theorem Reading.Ends.fetch {Q : Unit → Prop} {r : Reading Unit} {n a : Nat} {got : List Word} (t : State)
    (h : (r.after got).Ends Q (n + 1)) (hwants : r.wants got = some a) : (r.after (t.fetch r got)).Ends Q n := by
  unfold State.fetch
  rw [hwants]
  dsimp only
  rw [Reading.after_append, Reading.after_append]
  exact (h.word ((Reading.wants_after r got).trans hwants) _).after _

/-- One access of the engine fetches the next word of its read. -/
theorem State.serve_engine (s : State) : ∃ t : State, (s.serve .engine).traffic.engine =
    s.traffic.engine.map (t.fetch s.engineReading) := by
  refine ⟨s.untilTurn .engine 3, ?_⟩
  show (s.untilTurn .engine 3).traffic.engine.map (State.fetch _ (s.untilTurn .engine 3).engineReading) = _
  rw [(s.untilTurn_only .engine 3).engineReading,
    State.untilTurn_keeps (fun s => s.traffic.engine) State.grant_engine_other]

/-- One access of the Command Unit fetches the next word of the command's read. -/
theorem State.serve_command (s : State) : ∃ t : State, (s.serve .command).traffic.command =
    s.traffic.command.map (t.fetch s.commandReading) := by
  refine ⟨s.untilTurn .command 3, ?_⟩
  show (s.untilTurn .command 3).traffic.command.map (State.fetch _ (s.untilTurn .command 3).commandReading) = _
  rw [(s.untilTurn_only .command 3).commandReading,
    State.untilTurn_keeps (fun s => s.traffic.command) State.grant_command_other]

/-- Nothing is left to fetch where the read has no word to come. -/
theorem asks_eq_false {r : Reading Unit} {words : Option (List Word)} {Q : Unit → Prop}
    (h : ∀ got, words = some got → (r.after got).Ends Q 0) : words.any (fun got => (r.wants got).isSome) = false := by
  cases words with
  | none => rfl
  | some got =>
    show (r.wants got).isSome = false
    rw [← Reading.wants_after, (h got rfl).wants]
    rfl

/-- A read that asks for a word has words, and asks for the next of them. -/
theorem asks_cases {r : Reading Unit} {words : Option (List Word)}
    (h : words.any (fun got => (r.wants got).isSome) = true) : ∃ got a, words = some got ∧ r.wants got = some a := by
  cases words with
  | none => exact nomatch h
  | some got =>
    obtain ⟨a, ha⟩ := Option.isSome_iff_exists.mp h
    exact ⟨got, a, rfl, ha⟩

/-- The engine's read has come to its end after as many grants as it has words left. -/
theorem State.engineReadsOn_ends {Q : Unit → Prop} (n : Nat) (s : State)
    (h : ∀ got, s.traffic.engine = some got → (s.engineReading.after got).Ends Q n) :
    (s.engineReadsOn n).engineAsks = false := by
  induction n generalizing s with
  | zero => exact asks_eq_false h
  | succ k ih =>
    unfold State.engineReadsOn
    split
    next hasks =>
      obtain ⟨got, a, hgot, ha⟩ := asks_cases hasks
      refine ih _ fun got' hgot' => ?_
      obtain ⟨t, ht⟩ := s.serve_engine
      rw [hgot', hgot] at ht
      rw [(s.serve_only .engine).engineReading, Option.some.inj ht]
      exact (h got hgot).fetch t ha
    next hends => exact Bool.eq_false_iff.mpr hends

/-- A command's read has come to its end after as many grants as it has words left. -/
theorem State.commandReadsOn_ends {Q : Unit → Prop} (n : Nat) (s : State)
    (h : ∀ got, s.traffic.command = some got → (s.commandReading.after got).Ends Q n) :
    (s.commandReadsOn n).commandAsks = false := by
  induction n generalizing s with
  | zero => exact asks_eq_false h
  | succ k ih =>
    unfold State.commandReadsOn
    split
    next hasks =>
      obtain ⟨got, a, hgot, ha⟩ := asks_cases hasks
      refine ih _ fun got' hgot' => ?_
      obtain ⟨t, ht⟩ := s.serve_command
      rw [hgot', hgot] at ht
      rw [(s.serve_only .command).commandReading, Option.some.inj ht]
      exact (h got hgot).fetch t ha
    next hends => exact Bool.eq_false_iff.mpr hends

/-- A read without its result ends within the same words. -/
theorem Reading.Ends.steps {α : Type} {Q : α → Prop} {r : Reading α} {n k : Nat} (h : r.Ends Q n) (hle : n ≤ k) :
    r.steps.Ends (fun _ => True) k := (h.imp (P := fun _ => True) fun _ _ => trivial).map.mono hle

/-- Every read of the engine ends within the limit. -/
theorem State.engineReading_ends (s : State) : s.engineReading.Ends (fun _ => True) 4700 := by
  unfold State.engineReading
  split
  · exact (recheckSlot_ends _ _).steps (by decide)
  · exact (checkDemand_ends _).steps (by decide)
  · trivial

/-- Every read of a command ends within the limit. -/
theorem State.commandReading_ends (s : State) : s.commandReading.Ends (fun _ => True) 4700 := by
  unfold State.commandReading
  split
  · exact (validateBank_ends _ _).steps (by decide)
  · exact (readPointHead_ends _).steps (by decide)
  · exact (checkRecord_ends _).steps (by decide)
  · trivial

/-! ## The grants and the reads, one by one -/

theorem State.grant_engine {s : State} {got : List Word} {a : Nat} (h : s.traffic.engine = some got)
    (ha : s.engineReading.wants got = some a) :
    s.grant .engine =
      { s with
        traffic :=
          { s.traffic with
            engine := some (got ++ [s.ram.read a] ++ s.engineReading.samples s.set (got ++ [s.ram.read a])) }
        lastGrant := .engine } := by
  unfold State.grant State.access
  rw [h, Option.map_some, State.fetch, ha]

theorem State.grant_command {s : State} {got : List Word} {a : Nat} (h : s.traffic.command = some got)
    (ha : s.commandReading.wants got = some a) :
    s.grant .command =
      { s with
        traffic :=
          { s.traffic with
            command := some (got ++ [s.ram.read a] ++ s.commandReading.samples s.set (got ++ [s.ram.read a])) }
        lastGrant := .command } := by
  unfold State.grant State.access
  rw [h, Option.map_some, State.fetch, ha]

/-- A read without its result asks for the same words and samples the same registers. -/
theorem Reading.steps_same {α : Type} {r : Reading Unit} {q : Reading α} (h : r = q.steps) (got : List Word)
    (c : Settings) : r.wants got = q.wants got ∧ r.samples c got = q.samples c got := by
  subst h
  exact ⟨Reading.wants_map _ _ _, Reading.samples_map _ _ _ _⟩

theorem State.engineReading_slot {s : State} {n : Nat} (h : s.eng.phase = .reading n) :
    s.engineReading = (recheckSlot s.activeBase s.eng.slot).steps := by
  unfold State.engineReading
  rw [h]

theorem State.engineReading_demand {s : State} {n : Nat} {d : Demand} (h : s.eng.phase = .demandReading n)
    (hd : s.demandInFlight = some d) : s.engineReading = (checkDemand d).steps := by
  unfold State.engineReading
  rw [h, hd]

/-- The read of a command by its work. -/
theorem State.commandReading_of_held {s : State} {h : HeldCommand} (hheld : s.cmd.held = some h) :
    s.commandReading = match h.work with
      | .validation _ bank base => (validateBank bank base).steps
      | .pointRead _ p => (readPointHead p).steps
      | .postCheck p _ _ _ => (checkRecord p).steps
      | _ => .done () := by
  unfold State.commandReading
  rw [hheld]
  cases h with
  | mk args work => cases work <;> rfl

/-! ## The end of a validation -/

theorem exec_validation {s : State} {args : CommandArgs} {forSwitch : Bool} {bank : Bank} {base : Nat}
    (h : s.served.cmd.held = some { args, work := .validation forSwitch bank base }) :
    exec .planValidationDone s = .next ((s.served.commandReadsOn 4700).validated forSwitch bank base) := by
  refine congrArg Host.Outcome.next ?_
  unfold State.endValidation
  rw [h]
  rfl

theorem State.validated_error {s : State} {bank : Bank} {base : Nat} {f : CheckFailure} (forSwitch : Bool)
    (h : s.commandFinds (validateBank bank base) = .error f) :
    s.validated forSwitch bank base =
      s.endCommandRead.complete .planInvalid (BitVec.ofNat 16 (f.code % 64 * 1024 + f.index % 1024)) := by
  rw [State.validated, h]
  rfl

theorem State.validated_ok {s : State} {bank : Bank} {base : Nat} {g : Geometry} (forSwitch : Bool)
    (h : s.commandFinds (validateBank bank base) = .ok g) :
    s.validated forSwitch bank base =
      if forSwitch then s.endCommandRead.switchTo g else s.endCommandRead.complete .done 0 := by
  rw [State.validated, h]

/-- Table 1-10: a valid bank is active at once while the engine stands. -/
theorem State.switchTo_standing {s : State} (g : Geometry) (h : s.eng.state = .idle ∨ s.eng.state = .halted) :
    s.switchTo g = (s.activate g).complete .done 0 := by
  unfold State.switchTo
  rcases h with h | h <;> rw [h]

/-- Table 1-10: a valid bank is pending while the engine runs. -/
theorem State.switchTo_moving {s : State} (g : Geometry) (h : s.eng.state = .running ∨ s.eng.state = .draining) :
    s.switchTo g = ({ s with eng := { s.eng with pending := some g } }).complete .done 1 := by
  unfold State.switchTo
  rcases h with h | h <;> rw [h]

/-- Settles O36: validation's results; then reads in general, and the reads that the part has, which all end. -/
theorem validationEndsWithItsResult : Obligations.ValidationEndsWithItsResult := by
  refine ⟨?results, fun read c m got => ⟨fun a ha => ?fetched, fun hwants hsamples => ?ended⟩,
    fun s got next a => ⟨fun h ha e => e ▸ State.grant_engine h ha, fun h ha e => e ▸ State.grant_command h ha⟩,
    fun s got c => ⟨fun n h => Reading.steps_same (State.engineReading_slot h) got c,
      fun n d h hd => Reading.steps_same (State.engineReading_demand h hd) got c,
      fun _ _ _ _ h => Reading.steps_same (State.commandReading_of_held h) got c,
      fun _ _ _ h => Reading.steps_same (State.commandReading_of_held h) got c,
      fun _ _ _ _ _ h => Reading.steps_same (State.commandReading_of_held h) got c⟩,
    fun α s read got => ⟨fun h => ?engineFinds, fun h => ?commandFinds⟩,
    fun s => ⟨State.engineReadsOn_ends 4700 s fun got _ => s.engineReading_ends.after got,
      State.commandReadsOn_ends 4700 s fun got _ => s.commandReading_ends.after got⟩⟩
  case results =>
    rintro s₀ s r e args forSwitch bank base rfl hheld rfl rfl
    rw [exec_validation hheld]
    generalize s₀.served = s
    have hstate : (s.commandReadsOn 4700).endCommandRead.eng = s.eng := by
      rw [s.commandReadsOn_only 4700]
      rfl
    refine ⟨fun f hf => congrArg _ (State.validated_error forSwitch hf), fun g hg => ?_⟩
    rw [State.validated_ok forSwitch hg]
    refine ⟨fun e => congrArg _ (if_neg (by simp [e])), fun e he => ?standing, fun e he => ?moving⟩
    case standing =>
      rw [if_pos e, State.switchTo_standing g (by rwa [hstate])]
      have hbank : g.bank = bank := ((validateBank_ends bank base).value _ _ _ g hg).bank
      unfold State.activate
      rw [hbank, hstate]
    case moving => rw [if_pos e, State.switchTo_moving g (by rwa [hstate]), hstate]
  case fetched => rw [Reading.value_samples, Reading.value_word c ha]
  case ended => exact fun c' m' => Reading.value_of_ended hwants hsamples m c' m'
  case engineFinds => rw [State.engineFinds, h, Option.getD_some]
  case commandFinds => rw [State.commandFinds, h, Option.getD_some]

end Sys2Proof.Machine
end

section
/-! The reads of plans and points, read at one moment, are the checks of Tables 1-7 to 1-9 in their order (O37). -/

namespace Sys2Proof.Machine

open Sys2Proof.Safety

/-! ## Fields and lists of checks -/

/-- A field is a quotient and a remainder of the word. -/
theorem field_eq (w : Word) (lo len : Nat) : field w lo len = w.toNat / 2 ^ lo % 2 ^ len := by
  rw [field, BitVec.extractLsb'_toNat, Nat.shiftRight_eq_div_pow]

/-- What a list of checks makes of a value: the first failure, or the value. -/
def verdict {α : Type} (checks : List Check) (v : α) : Except CheckFailure α :=
  match firstFailure checks with
  | some f => .error f
  | none => .ok v

theorem verdict_nil {α : Type} (v : α) : verdict [] v = .ok v := rfl

theorem verdict_cons {α : Type} (k : Check) (checks : List Check) (v : α) :
    verdict (k :: checks) v = if k.fails then .error { code := k.code, index := k.index } else verdict checks v := by
  unfold verdict firstFailure
  rw [List.find?_cons]
  cases h : k.fails <;> rfl

theorem verdict_append {α β : Type} (xs ys : List Check) (u : β) (v : α) :
    verdict (xs ++ ys) v = (verdict xs u).bind (fun _ => verdict ys v) := by
  induction xs with
  | nil => rfl
  | cons k xs ih =>
    rw [List.cons_append, verdict_cons, verdict_cons, ih]
    split <;> rfl

theorem verdict_map {α β : Type} (checks : List Check) (f : α → β) (v : α) :
    (verdict checks v).map f = verdict checks (f v) := by
  unfold verdict
  split <;> rfl

/-! ## The header (Table 1-7, codes 1 to 5) -/

/-- The header that the words of a bank hold. -/
def headerHeld (w : Nat → Nat) : PlanHeader :=
  { roundCount := w 0, roundPeriod := w 1, answerWindow := w 2, policy := policyNamed (w 3), slotTotal := w 4 }

/-- A policy code names a policy where it is 1, 2 or 3. -/
theorem policyOf_eq (w : Word) : policyOf w =
    if w.toNat ≠ 1 ∧ w.toNat ≠ 2 ∧ w.toNat ≠ 3 then none else some (policyNamed w.toNat) := by
  unfold policyOf
  split
  next h => rw [h]; rfl
  next h => rw [h]; rfl
  next h => rw [h]; rfl
  next h1 h2 h3 => exact (if_pos ⟨h1, h2, h3⟩).symm

/-- A read that a check decides. -/
theorem Reading.value_ite {α : Type} {p : Prop} [Decidable p] (r q : Reading α) (c : Settings) (m : Ram)
    (got : List Word) : (if p then r else q).value c m got = if p then r.value c m got else q.value c m got :=
  apply_ite (fun r : Reading α => r.value c m got) p r q

theorem checkHeader_value (base : Nat) (c : Settings) (m : Ram) :
    (checkHeader base).value c m [] = verdict (headerChecks (bankWord m base)) (headerHeld (bankWord m base)) := by
  have hzero : ∀ w : Word, w = 0 ↔ w.toNat = 0 := fun w => ⟨fun e => congrArg _ e, fun e => BitVec.eq_of_toNat_eq e⟩
  have hword (i : Nat) : bankWord m base i = (m.read (ramAddress (base + i))).toNat := rfl
  unfold headerChecks
  simp only [verdict_cons, verdict_nil, checkHeader, headerFailure, Reading.value, Reading.value_ite, headerHeld, hword,
    Nat.add_zero, decide_eq_true_eq, Bool.or_eq_true, hzero]
  refine if_congr Iff.rfl rfl (if_congr Iff.rfl rfl (if_congr Iff.rfl rfl ?_))
  rw [policyOf_eq]
  by_cases h : (m.read (ramAddress (base + 3))).toNat ≠ 1 ∧ (m.read (ramAddress (base + 3))).toNat ≠ 2 ∧
      (m.read (ramAddress (base + 3))).toNat ≠ 3
  · rw [if_pos h, if_pos h]
    rfl
  · rw [if_neg h, if_neg h]
    simp only [Reading.value, Reading.value_ite]

/-! ## The directory (Table 1-7, codes 6 to 8) -/

/-- The checks of round `r`. -/
def roundChecks (w : Nat → Nat) (r : Nat) : List Check :=
  [ { code := 6, index := r, fails := decide (64 < roundSlots w r) },
    { code := 7, index := r, fails := decide (1 ≤ roundSlots w r ∧ roundFirst w r ≠ slotsBefore w r) } ]

/-- The directory entry of round `r`. -/
def roundHeld (w : Nat → Nat) (r : Nat) : DirectoryEntry := { first := roundFirst w r, count := roundSlots w r }

theorem slotsBefore_succ (w : Nat → Nat) (r : Nat) : slotsBefore w (r + 1) = slotsBefore w r + roundSlots w r := by
  unfold slotsBefore
  rw [List.range_succ, List.map_append, List.sum_append, List.map_singleton, List.sum_singleton]

theorem directoryOf_bankWord (m : Ram) (base r : Nat) :
    directoryOf (m.read (ramAddress (base + 8 + r))) = roundHeld (bankWord m base) r := by
  have hword : bankWord m base (8 + r) = (m.read (ramAddress (base + 8 + r))).toNat := by rw [Nat.add_assoc]; rfl
  have hw := (m.read (ramAddress (base + 8 + r))).isLt
  unfold directoryOf roundHeld roundFirst roundSlots
  rw [hword, field_eq, field_eq]
  congr 1
  · omega
  · omega

theorem checkDirectory_value (base total r rounds : Nat) (c : Settings) (m : Ram) :
    (checkDirectory base total r (slotsBefore (bankWord m base) r) rounds).value c m [] =
      verdict ((List.range' r rounds).flatMap (roundChecks (bankWord m base)) ++
          [{ code := 8, index := 0, fails := decide (slotsBefore (bankWord m base) (r + rounds) ≠ total) }])
        ((List.range' r rounds).map (roundHeld (bankWord m base))) := by
  induction rounds generalizing r with
  | zero =>
    unfold checkDirectory
    by_cases h : slotsBefore (bankWord m base) r = total <;> simp [Reading.value, verdict_cons, verdict_nil, h]
  | succ rest ih =>
    have hnext : slotsBefore (bankWord m base) r + (roundHeld (bankWord m base) r).count =
        slotsBefore (bankWord m base) (r + 1) := (slotsBefore_succ _ r).symm
    have hends : r + (rest + 1) = r + 1 + rest := by omega
    unfold checkDirectory
    simp only [Reading.value, Reading.value_ite, directoryOf_bankWord, hnext, Reading.value_map, ih, verdict_map,
      List.range'_succ, List.flatMap_cons, List.map_cons, roundChecks, List.cons_append, List.nil_append, verdict_cons,
      decide_eq_true_eq, hends]
    rfl

/-! ## Slot records (Table 1-8) -/

/-- A gate field names a gate, or NONE, where it is 0 or its bit 3 is set and the sense is defined. -/
theorem gateOf_eq (w0 : Word) : gateOf w0 =
    if (1 ≤ w0.toNat / 16 % 16 ∧ w0.toNat / 16 % 16 < 8) ∨
        (8 ≤ w0.toNat / 16 % 16 ∧ w0.toNat / 256 % 4 ≠ 1 ∧ w0.toNat / 256 % 4 ≠ 2) then none
    else some (if w0.toNat / 16 % 16 = 0 then none
      else some { gate := w0.toNat / 16 % 16 - 8, runIfSet := decide (w0.toNat / 256 % 4 = 1) }) := by
  have hgate : field w0 4 4 = w0.toNat / 16 % 16 := field_eq w0 4 4
  have hsense : field w0 8 2 = w0.toNat / 256 % 4 := field_eq w0 8 2
  unfold gateOf
  rw [hgate, hsense]
  generalize w0.toNat / 16 % 16 = g
  generalize w0.toNat / 256 % 4 = sense
  dsimp only
  by_cases hzero : g = 0
  · rw [if_pos hzero, if_neg (by omega), if_pos hzero]
  by_cases hlow : g < 8
  · rw [if_neg hzero, if_pos hlow, if_pos (.inl ⟨by omega, hlow⟩)]
  rw [if_neg hzero, if_neg hlow, if_neg (c := g = 0) hzero]
  split
  next => exact (if_neg (by omega)).symm
  next => exact (if_neg (by omega)).symm
  next h1 h2 => exact (if_pos (.inr ⟨by omega, h1, h2⟩)).symm

/-- A retry policy code names a policy where it is 1 or 2. -/
theorem retryPolicyOf_eq (w0 : Word) : retryPolicyOf w0 =
    if w0.toNat / 4096 % 4 ≠ 1 ∧ w0.toNat / 4096 % 4 ≠ 2 then none
    else some (if w0.toNat / 4096 % 4 = 1 then .same else .alternate) := by
  have hpolicy : field w0 12 2 = w0.toNat / 4096 % 4 := field_eq w0 12 2
  unfold retryPolicyOf
  rw [hpolicy]
  split
  next h => rw [h]; rfl
  next h => rw [h]; rfl
  next h1 h2 => exact (if_pos ⟨h1, h2⟩).symm

theorem readSlot_checks (base i : Nat) (c : Settings) (m : Ram) :
    ((readSlot base i).map (slotFailure i)).value c m [] =
      verdict (slotChecks (bankWord m base) i) (slotHeld (bankWord m base) i) := by
  rw [Reading.value_map, readSlot_value]
  have h0 : bankWord m base (72 + 2 * i) = (m.read (ramAddress (base + slotOffset i))).toNat := rfl
  have h1 : bankWord m base (72 + 2 * i + 1) = (m.read (ramAddress (base + slotOffset i + 1))).toNat := rfl
  unfold slotChecks slotHeld slotKind
  rw [h0, h1]
  generalize m.read (ramAddress (base + slotOffset i)) = w0
  generalize m.read (ramAddress (base + slotOffset i + 1)) = w1
  have hkind : field w0 0 3 = w0.toNat % 8 := by rw [field_eq]; omega
  have hretries : field w0 10 2 = w0.toNat / 1024 % 4 := field_eq w0 10 2
  have hpoint : w1.extractLsb' 0 8 = BitVec.ofNat 8 w1.toNat := by
    exact BitVec.eq_of_toNat_eq (by simp [BitVec.extractLsb'_toNat])
  have hzero : w1 = 0 ↔ w1.toNat = 0 := ⟨fun e => congrArg _ e, fun e => BitVec.eq_of_toNat_eq e⟩
  unfold parseSlot
  rw [hkind, hretries, hpoint, gateOf_eq, retryPolicyOf_eq]
  simp only [verdict_cons, verdict_nil, decide_eq_true_eq, Bool.or_eq_true, hzero]
  generalize w0.toNat % 8 = kind
  by_cases hbad : kind = 0 ∨ 4 < kind
  · rw [if_pos hbad, if_pos hbad]
    rfl
  rw [if_neg hbad, if_neg hbad]
  by_cases hgate : (1 ≤ w0.toNat / 16 % 16 ∧ w0.toNat / 16 % 16 < 8) ∨
      (8 ≤ w0.toNat / 16 % 16 ∧ w0.toNat / 256 % 4 ≠ 1 ∧ w0.toNat / 256 % 4 ≠ 2)
  · rw [if_pos hgate, if_pos hgate]
    rfl
  rw [if_neg hgate, if_neg hgate]
  dsimp only
  obtain rfl | rfl | rfl | rfl : kind = 1 ∨ kind = 2 ∨ kind = 3 ∨ kind = 4 := by omega
  · by_cases hpolicy : w0.toNat / 4096 % 4 ≠ 1 ∧ w0.toNat / 4096 % 4 ≠ 2
    · rw [if_pos hpolicy, if_pos (c := 1 = 1 ∧ _) ⟨rfl, hpolicy⟩]
      rfl
    · rw [if_neg hpolicy, if_neg (c := 1 = 1 ∧ _) fun h => hpolicy h.2]
      rfl
  · rfl
  · rfl
  · by_cases hlength : w1.toNat = 0 <;> simp [hlength, slotFailure]

/-- A list of checks, then what follows where all of them pass. -/
theorem verdict_bind {α β : Type} {xs ys : List Check} {v : α} {u : β} {f : α → Except CheckFailure β}
    (h : f v = verdict ys u) : (verdict xs v).bind f = verdict (xs ++ ys) u := by
  rw [verdict_append xs ys v u]
  unfold verdict at h ⊢
  split
  · rfl
  · exact h

/-- The TRANSFER slots among `slots` slots from `i` on, with the point each names. -/
def slotsNaming (w : Nat → Nat) (i slots : Nat) : List (Nat × BitVec 8) :=
  (List.range' i slots).filterMap fun i =>
    if slotKind w i = 1 then some (i, BitVec.ofNat 8 (w (72 + 2 * i + 1))) else none

theorem slotHeld_point (w : Nat → Nat) (i : Nat) :
    (slotHeld w i).point = if slotKind w i = 1 then some (BitVec.ofNat 8 (w (72 + 2 * i + 1))) else none := by
  unfold slotHeld SlotRecord.point
  by_cases h1 : slotKind w i = 1
  · simp [h1]
  by_cases h2 : slotKind w i = 2
  · simp [h2]
  by_cases h3 : slotKind w i = 3
  · simp [h3]
  simp [h1, h2, h3]

theorem checkSlots_value (base i slots : Nat) (c : Settings) (m : Ram) :
    (checkSlots base i slots).value c m [] =
      verdict ((List.range' i slots).flatMap (slotChecks (bankWord m base))) (slotsNaming (bankWord m base) i slots) := by
  induction slots generalizing i with
  | zero => rfl
  | succ rest ih =>
    unfold checkSlots slotsNaming
    rw [Reading.value_andThen, readSlot_checks, List.range'_succ, List.flatMap_cons, List.filterMap_cons]
    refine verdict_bind ?_
    rw [slotHeld_point]
    by_cases h : slotKind (bankWord m base) i = 1
    · rw [if_pos h, if_pos h]
      dsimp only
      rw [Reading.value_map, ih, verdict_map]
      rfl
    · rw [if_neg h, if_neg h]
      exact ih (i + 1)

/-! ## Point records (Table 1-9) -/

/-- A point function's code. -/
def functionCode (f : PointFunction) : Nat :=
  match f with
  | .read => 1
  | .write => 2
  | .exchange => 3

/-- A code that is not undefined is a function's. -/
theorem functionCode_of_defined {n : Nat} (h : ¬(n ≠ 1 ∧ n ≠ 2 ∧ n ≠ 3)) : ∃ f, n = functionCode f := by
  obtain h | h | h : n = 1 ∨ n = 2 ∨ n = 3 := by omega
  · exact ⟨.read, h⟩
  · exact ⟨.write, h⟩
  · exact ⟨.exchange, h⟩

theorem functionOf_of_code {w0 : Word} {f : PointFunction} (h : w0.toNat % 8 = functionCode f) :
    functionOf w0 = some f := by
  have hfield : field w0 0 3 = w0.toNat % 8 := by rw [field_eq]; omega
  unfold functionOf
  rw [hfield, h]
  cases f <;> rfl

theorem functionOf_undefined {w0 : Word} (h : w0.toNat % 8 ≠ 1 ∧ w0.toNat % 8 ≠ 2 ∧ w0.toNat % 8 ≠ 3) :
    functionOf w0 = none := by
  have hfield : field w0 0 3 = w0.toNat % 8 := by rw [field_eq]; omega
  unfold functionOf
  rw [hfield]
  split
  next e => exact absurd e h.1
  next e => exact absurd e h.2.1
  next e => exact absurd e h.2.2
  next => rfl

/-- Checks 14 to 16, by the function's code and the station. -/
theorem pointFunction_of_code {w0 : Word} {f : PointFunction} (h : w0.toNat % 8 = functionCode f) :
    pointFunction w0 =
      if w0.toNat / 256 % 64 = 0 then .error 15
      else if w0.toNat / 256 % 64 = 63 ∧ w0.toNat % 8 ≠ 2 then .error 16 else .ok f := by
  have hstation : pointStation w0 = w0.toNat / 256 % 64 := field_eq w0 8 6
  have huses : (decide (pointStation w0 = Config.broadcastStation) && f.usesIn) = true ↔
      w0.toNat / 256 % 64 = 63 ∧ w0.toNat % 8 ≠ 2 := by
    rw [hstation, h, Bool.and_eq_true, decide_eq_true_eq]
    refine and_congr_right fun _ => ?_
    cases f <;> decide
  unfold pointFunction
  rw [functionOf_of_code h]
  dsimp only
  rw [if_congr huses rfl rfl, hstation]

/-- Check 17, by the function's code. -/
theorem lengthsLegal_iff (f : PointFunction) (w2 : Word) :
    f.lengthsLegal w2 = true ↔
      ¬(((functionCode f = 1 ∨ functionCode f = 3) ∧ (w2.toNat / 256 % 64 = 0 ∨ 32 < w2.toNat / 256 % 64)) ∨
        ((functionCode f = 2 ∨ functionCode f = 3) ∧ (w2.toNat % 64 = 0 ∨ 32 < w2.toNat % 64))) := by
  have hin : field w2 8 6 = w2.toNat / 256 % 64 := field_eq w2 8 6
  have hout : field w2 0 6 = w2.toNat % 64 := by rw [field_eq]; omega
  unfold PointFunction.lengthsLegal lengthLegal
  rw [hin, hout]
  generalize w2.toNat / 256 % 64 = inLength
  generalize w2.toNat % 64 = outLength
  cases f with
  | read => simp [PointFunction.usesIn, PointFunction.usesOut, functionCode]; omega
  | write => simp [PointFunction.usesIn, PointFunction.usesOut, functionCode]; omega
  | exchange => simp [PointFunction.usesIn, PointFunction.usesOut, functionCode]; omega

theorem pageInside_iff {address length : Nat} : pageInside address length = true ↔ address + length ≤ 16384 :=
  decide_eq_true_iff

/-- Check 18. -/
theorem PointRecord.pagesChecked_eq (r : PointRecord) :
    r.pagesChecked =
      if 16384 < r.inPage0 + r.inLength ∨ 16384 < r.inPage1 + r.inLength ∨ 16384 < r.outPage0 + r.outLength ∨
          16384 < r.outPage1 + r.outLength then .error 18
      else .ok r := by
  have hpages : (pageInside r.inPage0 r.inLength && pageInside r.inPage1 r.inLength &&
      pageInside r.outPage0 r.outLength && pageInside r.outPage1 r.outLength) = true ↔
      ¬(16384 < r.inPage0 + r.inLength ∨ 16384 < r.inPage1 + r.inLength ∨ 16384 < r.outPage0 + r.outLength ∨
        16384 < r.outPage1 + r.outLength) := by
    simp only [Bool.and_eq_true, pageInside_iff]
    omega
  unfold PointRecord.pagesChecked
  rw [if_congr hpages rfl rfl, ite_not]

/-- The code of a failed check, without its index. -/
def codeOnly {α : Type} (v : Except CheckFailure α) : Except Nat α := v.mapError (·.code)

theorem readPoint_checks (c : Settings) (m : Ram) (base p : Nat) :
    (readPoint (base + 8 * p)).value c m [] = codeOnly (verdict (recordChecks m base p) (pointHeld m base p)) := by
  rw [readPoint_value]
  have hword (i : Nat) : bankWord m (base + 8 * p) i = (m.read (ramAddress (base + 8 * p + i))).toNat := rfl
  unfold recordChecks pointHeld
  simp only [hword, Nat.add_zero]
  generalize m.read (ramAddress (base + 8 * p)) = w0
  generalize m.read (ramAddress (base + 8 * p + 1)) = w1
  generalize m.read (ramAddress (base + 8 * p + 2)) = w2
  generalize m.read (ramAddress (base + 8 * p + 3)) = w3
  generalize m.read (ramAddress (base + 8 * p + 4)) = w4
  generalize m.read (ramAddress (base + 8 * p + 5)) = w5
  generalize m.read (ramAddress (base + 8 * p + 6)) = w6
  have hstation : pointStation w0 = w0.toNat / 256 % 64 := field_eq w0 8 6
  have hin : field w2 8 6 = w2.toNat / 256 % 64 := field_eq w2 8 6
  have hout : field w2 0 6 = w2.toNat % 64 := by rw [field_eq]; omega
  have hobject : w1.extractLsb' 8 8 = BitVec.ofNat 8 (w1.toNat / 256) :=
    BitVec.eq_of_toNat_eq (by simp [BitVec.extractLsb'_toNat, Nat.shiftRight_eq_div_pow])
  simp only [verdict_cons, verdict_nil, decide_eq_true_eq]
  by_cases hfunction : w0.toNat % 8 ≠ 1 ∧ w0.toNat % 8 ≠ 2 ∧ w0.toNat % 8 ≠ 3
  · rw [pointFunction, functionOf_undefined hfunction, if_pos hfunction]
    rfl
  rw [if_neg hfunction]
  obtain ⟨f, hf⟩ := functionCode_of_defined hfunction
  rw [pointFunction_of_code hf]
  by_cases h15 : w0.toNat / 256 % 64 = 0
  · rw [if_pos h15, if_pos h15]
    rfl
  rw [if_neg h15, if_neg h15]
  by_cases h16 : w0.toNat / 256 % 64 = 63 ∧ w0.toNat % 8 ≠ 2
  · rw [if_pos h16, if_pos h16]
    rfl
  rw [if_neg h16, if_neg h16]
  dsimp only
  rw [if_congr (lengthsLegal_iff f w2) rfl rfl, ite_not, hf]
  split
  · rfl
  rw [PointRecord.pagesChecked_eq]
  rw [apply_ite codeOnly]
  refine if_congr ?pages rfl (congrArg Except.ok ?record)
  case pages =>
    cases f with
    | read => simp [pointRecord, PointFunction.usesIn, PointFunction.usesOut, functionCode, hin]
    | write => simp [pointRecord, PointFunction.usesIn, PointFunction.usesOut, functionCode, hout]
    | exchange => simp [pointRecord, PointFunction.usesIn, PointFunction.usesOut, functionCode, hin, hout]; omega
  case record =>
    unfold pointRecord
    rw [hstation, hin, hout, hobject]
    cases f with
    | read => rfl
    | write => rfl
    | exchange => rfl

theorem checkRecord_checks (c : Settings) (m : Ram) (p : BitVec 8) :
    (checkRecord p).value c m [] =
      codeOnly (verdict (recordChecks m c.pointBase.toNat p.toNat) (pointHeld m c.pointBase.toNat p.toNat)) :=
  readPoint_checks c m c.pointBase.toNat p.toNat

/-- Checks 13 to 18; which slot names the point does not matter to the code. -/
theorem checkPoint_checks (c : Settings) (m : Ram) (slot : Nat) (p : BitVec 8) :
    (checkPoint p).value c m [] =
      codeOnly (verdict (pointChecks c m slot p.toNat) (pointHeld m c.pointBase.toNat p.toNat)) := by
  unfold pointChecks checkPoint
  rw [Reading.value, Reading.value_ite, checkRecord_checks, verdict_cons, apply_ite codeOnly]
  exact if_congr decide_eq_true_iff.symm rfl rfl

/-- Checks that carry the point, none of them 13, keep their index through the code alone. -/
theorem pointFailure_codeOnly {α : Type} (slot : Nat) (p : BitVec 8) {checks : List Check} (v : α)
    (h : ∀ k ∈ checks, k.index = p.toNat ∧ k.code ≠ 13) :
    pointFailure slot p (codeOnly (verdict checks v)) = verdict checks v := by
  induction checks with
  | nil => rfl
  | cons k rest ih =>
    obtain ⟨hindex, hcode⟩ := h k List.mem_cons_self
    rw [verdict_cons, apply_ite codeOnly, apply_ite (pointFailure slot p), ih fun k hk => h k (List.mem_cons_of_mem _ hk)]
    refine if_congr Iff.rfl ?_ rfl
    show Except.error (CheckFailure.mk k.code (if k.code = 13 then slot else p.toNat)) = _
    rw [if_neg hcode, hindex]

/-- The point checks of a slot, with the index of each (R12). -/
theorem pointRead_checks (c : Settings) (m : Ram) (slot : Nat) (p : BitVec 8) :
    ((checkPoint p).map (pointFailure slot p)).value c m [] =
      verdict (pointChecks c m slot p.toNat) (pointHeld m c.pointBase.toNat p.toNat) := by
  rw [Reading.value_map, checkPoint_checks c m slot]
  unfold pointChecks
  rw [verdict_cons, apply_ite codeOnly, apply_ite (pointFailure slot p), pointFailure_codeOnly]
  · rfl
  · intro k hk
    simp only [recordChecks, List.mem_cons, List.not_mem_nil, or_false] at hk
    obtain rfl | rfl | rfl | rfl | rfl := hk <;> exact ⟨rfl, Nat.ne_of_beq_eq_false rfl⟩

/-- The point checks of the TRANSFER slots, in the order of the slots (R12). -/
theorem checkPoints_value (c : Settings) (m : Ram) (w : Nat → Nat) (i slots : Nat) :
    (checkPoints (slotsNaming w i slots)).value c m [] =
      verdict ((List.range' i slots).flatMap (slotPointChecks c m w)) () := by
  induction slots generalizing i with
  | zero => rfl
  | succ rest ih =>
    have hpoint : (BitVec.ofNat 8 (w (72 + 2 * i + 1))).toNat = slotPoint w i := BitVec.toNat_ofNat _ _
    unfold slotsNaming slotPointChecks
    rw [List.range'_succ, List.filterMap_cons, List.flatMap_cons]
    by_cases h : slotKind w i = 1
    · rw [if_pos h, if_pos h]
      unfold checkPoints
      rw [Reading.value_andThen, pointRead_checks, hpoint]
      exact verdict_bind (ih (i + 1))
    · rw [if_neg h, if_neg h]
      exact ih (i + 1)

/-! ## A bank, a slot and a demand -/

/-- Validation is the checks of a bank, in their order (R9). -/
theorem validateBank_checks (c : Settings) (m : Ram) (bank : Bank) (base : Nat) :
    (validateBank bank base).value c m [] = verdict (bankChecks c m base) (bankGeometry m bank base) := by
  unfold validateBank bankChecks
  dsimp only
  rw [Reading.value_andThen, checkHeader_value, List.append_assoc, List.append_assoc]
  refine verdict_bind ?_
  have hdirectory := checkDirectory_value base (bankWord m base 4) 0 (bankWord m base 0) c m
  rw [Nat.zero_add] at hdirectory
  unfold directoryChecks bankGeometry
  rw [Reading.value_andThen]
  simp only [List.range_eq_range']
  refine (congrArg (Except.bind · _) hdirectory).trans (verdict_bind ?_)
  rw [Reading.value_andThen, checkSlots_value]
  refine verdict_bind ?_
  rw [Reading.value_map, checkPoints_value, verdict_map]
  rfl

/-- A slot's re-check is the checks of the slot and of its point (R21). -/
theorem recheckSlot_checks (c : Settings) (m : Ram) (base i : Nat) :
    (recheckSlot base i).value c m [] =
      verdict (slotChecks (bankWord m base) i ++ slotPointChecks c m (bankWord m base) i)
        { slot := slotHeld (bankWord m base) i
          point :=
            if slotKind (bankWord m base) i = 1 then some (pointHeld m c.pointBase.toNat (slotPoint (bankWord m base) i))
            else none } := by
  unfold recheckSlot
  rw [Reading.value_andThen, readSlot_checks]
  refine verdict_bind ?_
  have hpoint : (BitVec.ofNat 8 (bankWord m base (72 + 2 * i + 1))).toNat = slotPoint (bankWord m base) i :=
    BitVec.toNat_ofNat _ _
  unfold slotPointChecks
  rw [slotHeld_point]
  by_cases h : slotKind (bankWord m base) i = 1
  · rw [if_pos h, if_pos h, if_pos h]
    dsimp only
    rw [Reading.value_map, pointRead_checks, verdict_map, hpoint]
  · rw [if_neg h, if_neg h, if_neg h]
    rfl

/-! ## The words that a record's read takes (R100) -/

/-- The first three words of a record that has been found legal have passed checks 14 to 17. -/
theorem readPoint_ok {c : Settings} {m : Ram} {a : Nat} {w0 w1 w2 : Word} {f : PointFunction} {rest : List Word}
    {r : PointRecord} (hf : w0.toNat % 8 = functionCode f)
    (h : (readPoint a).value c m (w0 :: w1 :: w2 :: rest) = .ok r) :
    pointFunction w0 = .ok f ∧ f.lengthsLegal w2 = true := by
  have hfun : pointFunction w0 = .ok f := by
    obtain ⟨g, hg⟩ : ∃ g, pointFunction w0 = .ok g := by
      cases hw : pointFunction w0 with
      | error code => simp [readPoint, Reading.value, hw] at h
      | ok g => exact ⟨g, rfl⟩
    obtain ⟨hcode, -⟩ := pointFunction_ok.mp hg
    rw [hg, Option.some.inj (hcode.symm.trans (functionOf_of_code hf))]
  refine ⟨hfun, ?_⟩
  by_contra hlengths
  simp [readPoint, Reading.value, hfun, hlengths] at h

section

variable {a : Nat} {w0 w1 w2 : Word} {f : PointFunction}

/-- The words 0 to 2 of a record. -/
theorem readPoint_wants_first (hfun : pointFunction w0 = .ok f) :
    (readPoint a).wants [] = some (ramAddress a) ∧ (readPoint a).wants [w0] = some (ramAddress (a + 1)) ∧
    (readPoint a).wants [w0, w1] = some (ramAddress (a + 2)) := by
  refine ⟨rfl, ?_, ?_⟩
  · simp [readPoint, Reading.wants, hfun]
  · simp [readPoint, Reading.wants, hfun]

/-- What is read after word 2: the pages that the function uses. -/
def pagesRead (a : Nat) (f : PointFunction) (w0 w1 w2 : Word) : Reading (Except Nat PointRecord) :=
  readPages f.usesIn (a + 3) fun in0 in1 => readPages f.usesOut (a + 5) fun out0 out1 =>
    .done (pointRecord f w0 w1 w2 in0 in1 out0 out1).pagesChecked

theorem readPoint_pages (hfun : pointFunction w0 = .ok f) (hlengths : f.lengthsLegal w2 = true) (rest : List Word) :
    (readPoint a).wants (w0 :: w1 :: w2 :: rest) = (pagesRead a f w0 w1 w2).wants rest ∧
    ∀ (c : Settings) (m : Ram),
      (readPoint a).value c m (w0 :: w1 :: w2 :: rest) = (pagesRead a f w0 w1 w2).value c m rest := by
  refine ⟨?_, fun c m => ?_⟩
  · simp [readPoint, Reading.wants, hfun, hlengths, pagesRead]
  · simp [readPoint, Reading.value, hfun, hlengths, pagesRead]

/-- What the fields of a legal record are, and the ranges they lie in. -/
theorem pointRecord_legal {in0 in1 out0 out1 w3 w4 w5 w6 : Word} {r : PointRecord}
    (hfun : pointFunction w0 = .ok f) (hlengths : f.lengthsLegal w2 = true)
    (hpages : (pointRecord f w0 w1 w2 in0 in1 out0 out1).pagesChecked = .ok r)
    (hin : f ≠ .write → in0 = w3 ∧ in1 = w4) (hout : f ≠ .read → out0 = w5 ∧ out1 = w6) :
    r.function = f ∧
    r.station = w0.toNat / 256 % 64 ∧ 1 ≤ r.station ∧ (r.station = 63 → r.function = .write) ∧
    r.report = w1.getLsbD 0 ∧ r.notify = w1.getLsbD 1 ∧ r.sendOnCommit = w1.getLsbD 2 ∧
    r.objectIndex.toNat = w1.toNat / 256 ∧
    (r.function ≠ .write →
      r.inLength = w2.toNat / 256 % 64 ∧ r.inPage0 = w3.toNat ∧ r.inPage1 = w4.toNat ∧
      1 ≤ r.inLength ∧ r.inLength ≤ 32 ∧ r.inPage0 + r.inLength ≤ 16384 ∧ r.inPage1 + r.inLength ≤ 16384) ∧
    (r.function ≠ .read →
      r.outLength = w2.toNat % 64 ∧ r.outPage0 = w5.toNat ∧ r.outPage1 = w6.toNat ∧
      1 ≤ r.outLength ∧ r.outLength ≤ 32 ∧ r.outPage0 + r.outLength ≤ 16384 ∧ r.outPage1 + r.outLength ≤ 16384) := by
  obtain ⟨-, hstation, hbroadcast⟩ := pointFunction_ok.mp hfun
  obtain ⟨rfl, hin0, hin1, hout0, hout1⟩ := PointRecord.pagesChecked_ok.mp hpages
  have hlengths := (lengthsLegal_iff f w2).mp hlengths
  have hobject : (w1.extractLsb' 8 8).toNat = w1.toNat / 256 := by
    have := w1.isLt
    rw [BitVec.extractLsb'_toNat, Nat.shiftRight_eq_div_pow]
    omega
  refine ⟨rfl, field_eq w0 8 6, Nat.pos_of_ne_zero hstation, fun h63 => ?broadcast, rfl, rfl, rfl, hobject,
    fun hf => ?received, fun hf => ?sent⟩
  case broadcast =>
    cases f with
    | write => rfl
    | read => exact absurd ⟨h63, rfl⟩ hbroadcast
    | exchange => exact absurd ⟨h63, rfl⟩ hbroadcast
  case received =>
    obtain ⟨rfl, rfl⟩ := hin hf
    have hlength : (pointRecord f w0 w1 w2 in0 in1 out0 out1).inLength = w2.toNat / 256 % 64 := by
      cases f with
      | write => exact absurd rfl hf
      | read => exact field_eq w2 8 6
      | exchange => exact field_eq w2 8 6
    have hcode : functionCode f = 1 ∨ functionCode f = 3 := by
      cases f with
      | write => exact absurd rfl hf
      | read => exact .inl rfl
      | exchange => exact .inr rfl
    exact ⟨hlength, rfl, rfl, by omega, by omega, hin0, hin1⟩
  case sent =>
    obtain ⟨rfl, rfl⟩ := hout hf
    have hlength : (pointRecord f w0 w1 w2 in0 in1 out0 out1).outLength = w2.toNat % 64 := by
      have hfield : field w2 0 6 = w2.toNat % 64 := by rw [field_eq]; omega
      cases f with
      | read => exact absurd rfl hf
      | write => exact hfield
      | exchange => exact hfield
    have hcode : functionCode f = 2 ∨ functionCode f = 3 := by
      cases f with
      | read => exact absurd rfl hf
      | write => exact .inl rfl
      | exchange => exact .inr rfl
    exact ⟨hlength, rfl, rfl, by omega, by omega, hout0, hout1⟩

end

/-- Settles O37: the checks of banks, slots, demands and records, the geometry of a valid bank, and the words read. -/
theorem checksPassOnlyLegalRecords : Obligations.ChecksPassOnlyLegalRecords := by
  refine ⟨validateBank_checks, recheckSlot_checks, fun c m d => ?demand, fun c m p => ?record,
    fun c m got bank base g hg => ?geometry, fun base i w0 w1 => ?slot,
    fun c m a w0 w1 w2 w3 w4 w5 w6 offsets words r hwords hr => ?point⟩
  case demand =>
    rw [checkDemand, Reading.value_map, checkPoint_checks c m 0, verdict]
    cases firstFailure (pointChecks c m 0 d.point.toNat) with
    | some f => rfl
    | none => rfl
  case record =>
    rw [checkRecord_checks, verdict]
    cases firstFailure (recordChecks m c.pointBase.toNat p.toNat) with
    | some f => rfl
    | none => rfl
  case geometry =>
    obtain ⟨hbank, hbase, hrounds, hperiod, hwindow, hslots, hlength, hsum, hentries⟩ :=
      (validateBank_ends bank base).value c m got g hg
    rw [Nat.zero_add] at hsum
    refine ⟨hbank, hbase, hrounds.1, hrounds.2, hperiod.1, hperiod.2, hwindow.1, hwindow.2, hslots, hlength, hsum,
      fun r entry he => ?_⟩
    obtain ⟨hcount, hfirst⟩ := hentries r entry he
    exact ⟨hcount, fun h1 => (hfirst h1).trans (Nat.zero_add _)⟩
  case slot =>
    have hkind : field w0 0 3 = w0.toNat % 8 := by rw [field_eq]; omega
    have hunused : readsSlotWord1 w0 = true ↔ ¬(w0.toNat % 8 = 2 ∨ w0.toNat % 8 = 3) := by
      simp [readsSlotWord1, hkind]
    have hword0 : base + slotOffset i = base + 72 + 2 * i := by unfold slotOffset; omega
    have hword1 : base + slotOffset i + 1 = base + 73 + 2 * i := by unfold slotOffset; omega
    unfold readSlot
    rw [hword1, hword0]
    refine ⟨rfl, ?_, ?_⟩
    · rw [Reading.wants]
      by_cases h : w0.toNat % 8 = 2 ∨ w0.toNat % 8 = 3
      · rw [if_pos h, if_neg fun e => hunused.mp e h]
        rfl
      · rw [if_neg h, if_pos (hunused.mpr h)]
        rfl
    · rw [Reading.wants]
      split <;> rfl
  case point =>
    obtain ⟨hf, rfl, rfl⟩ | ⟨hf, rfl, rfl⟩ | ⟨hf, rfl, rfl⟩ := hwords
    · obtain ⟨hfun, hlengths⟩ := readPoint_ok (f := .read) hf hr
      obtain ⟨hwant0, hwant1, hwant2⟩ := readPoint_wants_first (a := a) (w1 := w1) hfun
      have hwant := fun rest => (readPoint_pages (a := a) (w1 := w1) hfun hlengths rest).1
      rw [(readPoint_pages hfun hlengths _).2] at hr
      obtain ⟨hfunction, hfields⟩ := pointRecord_legal hfun hlengths hr (fun _ => ⟨rfl, rfl⟩) (fun h => absurd rfl h)
      refine ⟨fun i k h => ?_, hwant _, .inl ⟨hf, hfunction⟩, hfields⟩
      match i, h with
      | 0, rfl => exact hwant0
      | 1, rfl => exact hwant1
      | 2, rfl => exact hwant2
      | 3, rfl => exact hwant []
      | 4, rfl => exact hwant [w3]
    · obtain ⟨hfun, hlengths⟩ := readPoint_ok (f := .write) hf hr
      obtain ⟨hwant0, hwant1, hwant2⟩ := readPoint_wants_first (a := a) (w1 := w1) hfun
      have hwant := fun rest => (readPoint_pages (a := a) (w1 := w1) hfun hlengths rest).1
      rw [(readPoint_pages hfun hlengths _).2] at hr
      obtain ⟨hfunction, hfields⟩ := pointRecord_legal hfun hlengths hr (fun h => absurd rfl h) (fun _ => ⟨rfl, rfl⟩)
      refine ⟨fun i k h => ?_, hwant _, .inr (.inl ⟨hf, hfunction⟩), hfields⟩
      match i, h with
      | 0, rfl => exact hwant0
      | 1, rfl => exact hwant1
      | 2, rfl => exact hwant2
      | 3, rfl => exact hwant []
      | 4, rfl => exact hwant [w5]
    · obtain ⟨hfun, hlengths⟩ := readPoint_ok (f := .exchange) hf hr
      obtain ⟨hwant0, hwant1, hwant2⟩ := readPoint_wants_first (a := a) (w1 := w1) hfun
      have hwant := fun rest => (readPoint_pages (a := a) (w1 := w1) hfun hlengths rest).1
      rw [(readPoint_pages hfun hlengths _).2] at hr
      obtain ⟨hfunction, hfields⟩ := pointRecord_legal hfun hlengths hr (fun _ => ⟨rfl, rfl⟩) (fun _ => ⟨rfl, rfl⟩)
      refine ⟨fun i k h => ?_, hwant _, .inr (.inr ⟨hf, hfunction⟩), hfields⟩
      match i, h with
      | 0, rfl => exact hwant0
      | 1, rfl => exact hwant1
      | 2, rfl => exact hwant2
      | 3, rfl => exact hwant []
      | 4, rfl => exact hwant [w3]
      | 5, rfl => exact hwant [w3, w4]
      | 6, rfl => exact hwant [w3, w4, w5]

end Sys2Proof.Machine
end

section
/-! The station table: STATION ENABLE and STATION DISABLE (O38), and what the end of a transfer makes of a record (O39). -/

namespace Sys2Proof.Machine

open Sys2Proof.Safety

/-! ## A record after a POINT transfer (Table 4-3) -/

section

variable {r : Station} {o : OutcomeCode} (t : TrunkId) (suspectAfter absentAfter : Nat)

theorem StationState.called_iff {s : StationState} : s.called = true ↔ s = .online ∨ s = .suspect := by
  cases s <;> decide

/-- What a record is after a POINT transfer: the toggle and trunk changes, then the health. -/
def Station.afterCall (r : Station) (o : OutcomeCode) (t : TrunkId) (suspectAfter absentAfter : Nat) : Station :=
  (r.delivered o t).afterPoint o suspectAfter absentAfter

variable (h : r.state.called = true)

include h

theorem Station.afterCall_good (ho : o.isGood = true) :
    r.afterCall o t suspectAfter absentAfter =
      { r with nextToggle := !r.nextToggle, currentTrunk := t, state := .online, failureRun := 0 } := by
  have hsuccess : o.isSuccess = true := by
    cases o with
    | good => rfl
    | goodRepeat => rfl
    | _ => exact nomatch ho
  simp [Station.afterCall, Station.delivered, Station.afterPoint, ho, hsuccess, h]

theorem Station.afterCall_busy (ho : o.isGood = false) (hsuccess : o.isSuccess = true) :
    r.afterCall o t suspectAfter absentAfter = { r with state := .online, failureRun := 0 } := by
  simp [Station.afterCall, Station.delivered, Station.afterPoint, ho, hsuccess, h]

theorem Station.afterCall_failed (ho : o.isGood = false) (hsuccess : o.isSuccess = false)
    (hfail : o.isStationFailure = true) :
    r.afterCall o t suspectAfter absentAfter = r.failed suspectAfter absentAfter := by
  simp [Station.afterCall, Station.delivered, Station.afterPoint, ho, hsuccess, hfail, h]

theorem Station.afterCall_resynchronises (ho : o.isGood = false) (hsuccess : o.isSuccess = false)
    (hfail : o.isStationFailure = false) (hresync : o.isResynchronising = true) :
    r.afterCall o t suspectAfter absentAfter = { r with state := .confirming, failureRun := 0, confirmCount := 0 } := by
  simp [Station.afterCall, Station.delivered, Station.afterPoint, ho, hsuccess, hfail, hresync, h]

omit h in
theorem Station.afterCall_other (ho : o.isGood = false) (hsuccess : o.isSuccess = false)
    (hfail : o.isStationFailure = false) (hresync : o.isResynchronising = false) :
    r.afterCall o t suspectAfter absentAfter = r := by
  simp [Station.afterCall, Station.delivered, Station.afterPoint, ho, hsuccess, hfail, hresync]

end

/-! ## The reports -/

/-- A record stored and its change of state reported. -/
theorem State.setStation_reportStation (s : State) (x : Transfer) (o : OutcomeCode) (r : Station) (cause : Nat) :
    (s.setStation x.station r).reportStation x o (s.station x.station).state r.state cause = stationMoves s x o r cause :=
  rfl

/-- A record that stays as it is moves nothing. -/
theorem stationMoves_self (s : State) (x : Transfer) (o : OutcomeCode) (cause : Nat) :
    stationMoves s x o (s.station x.station) cause = s := by
  rw [stationMoves, if_pos rfl, State.setStation_self]

theorem Station.identityMatches_iff {r : Station} {heard : Word} :
    r.identityMatches heard = true ↔ r.expectedIdentity = 0 ∨ heard = r.expectedIdentity := by
  rw [Station.identityMatches, Bool.or_eq_true, decide_eq_true_iff, decide_eq_true_iff]

theorem State.stationReport_none {s : State} {x : Transfer} (o : OutcomeCode)
    (h : x.detached = true ∨ (s.station x.station).state = .off) : s.stationReport x o = s :=
  if_pos (by rcases h with h | h <;> simp [h])

theorem State.stationReport_point {s : State} {x : Transfer} (o : OutcomeCode) (hdetached : x.detached = false)
    (hkind : x.kind = .point) (hon : (s.station x.station).state ≠ .off) :
    s.stationReport x o = stationMoves s x o
      ((s.station x.station).afterCall o x.trunk s.set.suspectAfter.toNat s.set.absentAfter.toNat) 1 := by
  unfold State.stationReport
  rw [if_neg (by simp [hdetached, hon]), hkind]
  rfl

theorem State.stationReport_probe {s : State} {x : Transfer} (o : OutcomeCode) (hdetached : x.detached = false)
    (hkind : x.kind = .probe) (hon : (s.station x.station).state ≠ .off) : s.stationReport x o = s.probeHealth x o := by
  unfold State.stationReport
  rw [if_neg (by simp [hdetached, hon]), hkind]

section

variable {s : State} {x : Transfer} {o : OutcomeCode}
  (h : (s.station x.station).state = .absent ∨ (s.station x.station).state = .confirming)

include h

theorem State.probeHealth_eq : s.probeHealth x o =
    if o = .good then
      if (s.station x.station).identityMatches x.heardIdentity then
        stationMoves s x o
          ((s.station x.station).confirmed x.heardIdentity x.reportedToggle s.set.confirmCount.toNat) 1
      else
        stationMoves
          (if (s.station x.station).mismatch then s
            else s.report .identityMismatch (some x.trunk) x.station o (x.point.setWidth 16) x.heardIdentity) x o
          ((s.station x.station).mismatched x.heardIdentity s.set.probeInterval.toNat) 2
    else if o.isStationFailure then stationMoves s x o (s.station x.station).probeFailed 1
    else s := by
  unfold State.probeHealth
  rw [if_neg (by rcases h with h | h <;> simp [h])]
  refine if_congr Iff.rfl (if_congr Iff.rfl rfl ?_) rfl
  dsimp only
  split <;> rfl

end

/-- Settles O39: by kind of transfer, state of the station and outcome. -/
theorem healthEvaluationFollowsTheOutcome : Obligations.HealthEvaluationFollowsTheOutcome := by
  rintro s x o r - - rfl
  refine ⟨State.stationReport_none o, fun hdetached hkind hstate => ?point, fun hdetached hkind hstate => ?probe,
    fun c => ⟨fun h => ?unheard, ?condition⟩⟩
  case point =>
    have hcalled := StationState.called_iff.mpr hstate
    have hon : (s.station x.station).state ≠ .off := fun e => by simp [e] at hstate
    rw [State.stationReport_point o hdetached hkind hon]
    refine ⟨fun ho => ?_, fun ho => ?_, fun ho run hrun => ?_, fun ho => ?_, fun ho => ?_⟩
    · rw [Station.afterCall_good _ _ _ hcalled (by rcases ho with rfl | rfl <;> rfl)]
    · subst ho
      rw [Station.afterCall_busy _ _ _ hcalled rfl rfl]
    · have hclass : ∀ o ∈ [OutcomeCode.noAnswer, .garbled, .wrongStation, .wrongToggle, .wrongLength],
          o.isGood = false ∧ o.isSuccess = false ∧ o.isStationFailure = true := by decide
      obtain ⟨hgood, hsuccess, hfail⟩ := hclass o ho
      rw [Station.afterCall_failed _ _ _ hcalled hgood hsuccess hfail, Station.failed, ← hrun]
      refine ⟨fun habsent => ?_, fun habsent hsuspect => ?_, fun habsent hsuspect => ?_⟩
      · rw [if_pos habsent]
      · rw [if_neg (Nat.not_le.mpr habsent), if_pos hsuspect]
      · rw [if_neg (Nat.not_le.mpr habsent), if_neg (Nat.not_le.mpr hsuspect)]
    · rcases ho with rfl | rfl
      · rw [Station.afterCall_resynchronises _ _ _ hcalled rfl rfl rfl rfl]
      · rw [Station.afterCall_resynchronises _ _ _ hcalled rfl rfl rfl rfl]
    · have hclass : ∀ o ∈ [OutcomeCode.occupied, .echoFault, .noTrunk, .aborted],
          o.isGood = false ∧ o.isSuccess = false ∧ o.isStationFailure = false ∧ o.isResynchronising = false := by decide
      obtain ⟨hgood, hsuccess, hfail, hresync⟩ := hclass o ho
      rw [Station.afterCall_other _ _ _ hgood hsuccess hfail hresync, stationMoves_self]
  case probe =>
    have hon : (s.station x.station).state ≠ .off := fun e => by simp [e] at hstate
    rw [State.stationReport_probe o hdetached hkind hon, State.probeHealth_eq hstate]
    refine ⟨fun ho hmatch => ?_, fun ho h0 hother told htold => ?_, fun ho => ?_, fun ho => ?_⟩
    · have hidentity : (s.station x.station).identityMatches x.heardIdentity = true :=
        Station.identityMatches_iff.mpr hmatch
      rw [if_pos ho, if_pos hidentity, Station.confirmed]
      refine ⟨fun hneeded => ?_, fun hneeded => ?_⟩
      · rw [if_pos hneeded]
      · rw [if_neg (Nat.not_le.mpr hneeded)]
    · subst ho htold
      have hidentity : ¬(s.station x.station).identityMatches x.heardIdentity = true :=
        fun h => (Station.identityMatches_iff.mp h).elim h0 hother
      rw [if_pos rfl, if_neg hidentity]
      rfl
    · have hclass : ∀ o ∈ [OutcomeCode.noAnswer, .garbled, .wrongStation, .wrongLength],
          o ≠ .good ∧ o.isStationFailure = true := by decide
      obtain ⟨hgood, hfail⟩ := hclass o ho
      rw [if_neg hgood, if_pos hfail]
      rfl
    · have hclass : ∀ o ∈ [OutcomeCode.occupied, .echoFault, .noTrunk, .aborted],
          o ≠ .good ∧ ¬o.isStationFailure = true := by decide
      obtain ⟨hgood, hfail⟩ := hclass o ho
      rw [if_neg hgood, if_neg hfail]
  case unheard => exact if_pos (by rcases h with h | h <;> simp [h])
  case condition =>
    rintro hdetached hon a b rfl rfl
    unfold State.conditionReport State.reportCondition conditionAttention conditionFault
    rw [if_neg (by simp [hdetached, hon])]
    simp only [Bool.and_eq_true, Bool.not_eq_true', Nat.one_mul]

/-! ## Putting stations into and out of service (O38) -/

theorem stationOfOperand_some {w : Word} (h1 : 1 ≤ w.toNat) (h62 : w.toNat ≤ 62) : stationOfOperand w = some w.toNat :=
  if_pos ⟨h1, h62⟩

theorem stationOfOperand_none {w : Word} (h : w.toNat = 0 ∨ 62 < w.toNat) : stationOfOperand w = none :=
  if_neg fun hlegal => by
    have : w.toNat ≤ 62 := hlegal.2
    omega

theorem trunkOfOperand_none {w : Word} (h : 1 < w.toNat) : trunkOfOperand w = none := by
  unfold trunkOfOperand
  split
  next e => omega
  next e => omega
  next => rfl

/-- A detached transfer to the station, where there is one. -/
theorem State.detach_eq (s : State) (n : Nat) :
    s.detach n = { s with
      xfer := s.xfer.map fun x =>
        if x.station = n ∧ (x.kind = .point ∨ x.kind = .probe) then { x with detached := true } else x } := by
  unfold State.detach
  split
  next x hx =>
    split
    next h => rw [hx, Option.map_some, if_pos h]
    next h => rw [hx, Option.map_some, if_neg h, ← hx]
  next hx => rw [hx, Option.map_none, ← hx]

section

variable {s : State} {n : Nat}

theorem State.stationEnable_off {k : TrunkId} (hn : stationOfOperand s.cmd.args.arg0 = some n)
    (hk : trunkOfOperand s.cmd.args.arg1 = some k) (hoff : (s.station n).state = .off) :
    s.stationEnable = ((s.setStation n ((s.station n).enabled k)).report .stationState none n .none 0 0x0103).complete
      .done 0 := by
  unfold State.stationEnable
  rw [hn, hk]
  dsimp only
  rw [if_pos hoff, hoff]
  rfl

theorem State.stationEnable_on {k : TrunkId} (hn : stationOfOperand s.cmd.args.arg0 = some n)
    (hk : trunkOfOperand s.cmd.args.arg1 = some k) (hon : (s.station n).state ≠ .off) :
    s.stationEnable = s.complete .refusedState (BitVec.ofNat 16 (s.station n).state.code) := by
  unfold State.stationEnable
  rw [hn, hk]
  dsimp only
  rw [if_neg hon]

theorem State.stationEnable_illegal (h : stationOfOperand s.cmd.args.arg0 = none ∨ trunkOfOperand s.cmd.args.arg1 = none) :
    s.stationEnable = s.complete .badOperand 0 := by
  unfold State.stationEnable
  split
  next hn hk =>
    rcases h with h | h
    · exact nomatch hn.symm.trans h
    · exact nomatch hk.symm.trans h
  next => rfl

theorem State.stationDisable_off (hn : stationOfOperand s.cmd.args.arg0 = some n) (hoff : (s.station n).state = .off) :
    s.stationDisable = s.complete .done 0 := by
  unfold State.stationDisable
  rw [hn]
  exact if_pos hoff

theorem State.stationDisable_on (hn : stationOfOperand s.cmd.args.arg0 = some n) (hon : (s.station n).state ≠ .off) :
    s.stationDisable =
      (((s.setStation n (s.station n).disabled).report .stationState none n .none 0
        (BitVec.ofNat 16 ((s.station n).state.code * 4096 + 4))).detach n).complete .done 0 := by
  have hdetail : stateChange (s.station n).state.code StationState.off.code stationCauseDisable =
      BitVec.ofNat 16 ((s.station n).state.code * 4096 + 4) := by
    unfold stateChange StationState.code stationCauseDisable
    rw [Nat.zero_mul, Nat.add_zero]
  unfold State.stationDisable
  rw [hn, ← hdetail]
  exact if_neg hon

theorem State.stationDisable_illegal (hn : stationOfOperand s.cmd.args.arg0 = none) :
    s.stationDisable = s.complete .badOperand 0 := by
  unfold State.stationDisable
  rw [hn]

end

/-- Settles O38: STATION ENABLE and STATION DISABLE, by the operands and the station's state. -/
theorem stationsEnterAndLeaveService : Obligations.StationsEnterAndLeaveService := by
  rintro s₀ s n r rfl hready rfl rfl
  rw [exec_command (c := .stationEnable) rfl hready, exec_command (c := .stationDisable) rfl hready]
  generalize s₀.served = s
  have henable : (taken s 0x0020).act 0x0020 = (taken s 0x0020).stationEnable := rfl
  have hdisable : (taken s 0x0021).act 0x0021 = (taken s 0x0021).stationDisable := rfl
  rw [henable, hdisable]
  refine ⟨fun h1 h62 => ?legal, fun h => congrArg _ (State.stationEnable_illegal (s := taken s 0x0020) ?illegal),
    fun h => congrArg _ (State.stationDisable_illegal (s := taken s 0x0021) (stationOfOperand_none h))⟩
  case legal =>
    have hn := stationOfOperand_some h1 h62
    refine ⟨fun k hk => ?enable, fun hoff => ?off, fun hon => ?on⟩
    case enable =>
      have hk : trunkOfOperand s.cmd.args.arg1 = some k := by
        rcases hk with ⟨e, rfl⟩ | ⟨e, rfl⟩ <;> rw [e] <;> rfl
      exact ⟨fun hoff => congrArg _ (State.stationEnable_off (s := taken s 0x0020) hn hk hoff),
        fun hon => congrArg _ (State.stationEnable_on (s := taken s 0x0020) hn hk hon)⟩
    case off => exact congrArg _ (State.stationDisable_off (s := taken s 0x0021) hn hoff)
    case on =>
      rw [State.stationDisable_on (s := taken s 0x0021) hn hon, State.detach_eq]
      rfl
  case illegal =>
    rcases h with h | h | h
    · exact .inl (stationOfOperand_none (.inl h))
    · exact .inl (stationOfOperand_none (.inr h))
    · exact .inr (trunkOfOperand_none h)

end Sys2Proof.Machine
end

section
/-! The end of a point command's read (O40) and of a post's record check (O42), and DEMAND CANCEL (O43). -/

namespace Sys2Proof.Machine

open Sys2Proof.Safety

/-! ## The point commands (O40) -/

theorem word_flagBit (b : Bool) : BitVec.ofNat 16 (flagBit b) = if b then 1 else 0 := by cases b <;> rfl

theorem word_flagBit_not (b : Bool) : BitVec.ofNat 16 (flagBit (!b)) = if b then 0 else 1 := by cases b <;> rfl

theorem exec_pointRead {s : State} {args : CommandArgs} {command : PointCommand} {p : BitVec 8}
    (h : s.served.cmd.held = some { args, work := .pointRead command p }) :
    exec .pointCommandReadDone s = .next ((s.served.commandReadsOn 4700).pointChecked command p) := by
  refine congrArg Host.Outcome.next ?_
  unfold State.endPointRead
  rw [h]
  rfl

section

variable {s : State} {w0 w1 : Word} {p : BitVec 8} (hhead : s.commandFinds (readPointHead p) = (w0, w1))

include hhead

/-- A record whose function the command does not accept (Table 5-3). -/
theorem State.pointChecked_refused {command : PointCommand}
    (h : ∀ f, w0.toNat % 8 = functionCode f → command.accepts f = false) :
    s.pointChecked command p = s.endCommandRead.complete .badOperand 2 := by
  unfold State.pointChecked
  rw [hhead]
  dsimp only
  by_cases hdefined : w0.toNat % 8 ≠ 1 ∧ w0.toNat % 8 ≠ 2 ∧ w0.toNat % 8 ≠ 3
  · rw [functionOf_undefined hdefined]
  obtain ⟨f, hf⟩ := functionCode_of_defined hdefined
  rw [functionOf_of_code hf]
  exact if_pos (by rw [h f hf]; rfl)

/-- A record whose function the command accepts (Table 5-3). -/
theorem State.pointChecked_accepted {command : PointCommand} {f : PointFunction} (hf : w0.toNat % 8 = functionCode f)
    (h : command.accepts f = true) :
    s.pointChecked command p =
      match command with
      | .hold => s.endCommandRead.hold p
      | .release => s.endCommandRead.release p (pointStation w0) (bitOf w1 1)
      | .commit => s.endCommandRead.commit p := by
  unfold State.pointChecked
  rw [hhead]
  dsimp only
  rw [functionOf_of_code hf]
  dsimp only
  rw [if_neg (by simp [h])]
  cases command <;> rfl

end

section

variable {s : State} {p : BitVec 8}

theorem State.release_still (station : Nat) (notify : Bool) (h : (s.point p).pending = false) :
    s.release p station notify = (s.setPoint p { s.point p with hold := false }).complete .done 0 :=
  if_neg (by simp [h])

/-- A RELEASE that delivers a waiting answer (R112). -/
theorem State.release_delivers (station : Nat) (notify : Bool) (h : (s.point p).pending = true) :
    s.release p station notify =
      ((s.setPoint p { (s.point p).flip with hold := false, pending := false }).reportUpdate notify none station .none
        p).complete .done 1 :=
  if_pos h

theorem State.commit_inFlight (h : (s.point p).inFlight = true) : s.commit p = s.complete .inFlight 0 := if_pos h

theorem State.commit_free (h : (s.point p).inFlight = false) :
    s.commit p = (s.setPoint p { s.point p with transmit := !(s.point p).transmit, committed := true }).complete .done
      (BitVec.ofNat 16 (flagBit (!(s.point p).transmit))) :=
  if_neg (by simp [h])

end

/-- HOLD and RELEASE accept the functions that receive (Table 5-3). -/
theorem receives_accepts {n : Nat} {c : PointCommand} (hc : c ≠ .commit) (h : n = 1 ∨ n = 3) :
    ∃ f, n = functionCode f ∧ c.accepts f = true := by
  obtain ⟨f, hf, hin⟩ : ∃ f, n = functionCode f ∧ f.usesIn = true := by
    rcases h with h | h
    · exact ⟨.read, h, rfl⟩
    · exact ⟨.exchange, h, rfl⟩
  refine ⟨f, hf, ?_⟩
  cases c with
  | hold => exact hin
  | release => exact hin
  | commit => exact absurd rfl hc

/-- Settles O40: HOLD, RELEASE and COMMIT, by the record's function and the point's entry. -/
theorem pointCommandsActWhenTheirReadEnds : Obligations.PointCommandsActWhenTheirReadEnds := by
  refine ⟨fun c m p => rfl, ?_⟩
  rintro s₀ s r e args command p entry w0 w1 rfl hheld rfl rfl rfl hhead
  have honly := (s₀.served.commandReadsOn_only 4700)
  rw [exec_pointRead hheld, ← honly.point]
  generalize s₀.served.commandReadsOn 4700 = r at hhead ⊢
  have hentry : r.point p = r.endCommandRead.point p := rfl
  rw [hentry]
  refine ⟨?hold, ?release, ?commit, ?receivesNot, ?sendsNot⟩
  case hold =>
    rintro rfl h
    obtain ⟨f, hf, haccepts⟩ := receives_accepts (c := .hold) (by decide) h
    rw [State.pointChecked_accepted hhead.symm hf haccepts]
    dsimp only
    rw [State.hold, word_flagBit]
  case release =>
    rintro rfl h
    obtain ⟨f, hf, haccepts⟩ := receives_accepts (c := .release) (by decide) h
    rw [State.pointChecked_accepted hhead.symm hf haccepts]
    dsimp only
    refine ⟨fun hpending => congrArg _ (State.release_still _ _ hpending), ?_⟩
    rintro hpending u rfl
    rw [State.release_delivers _ _ hpending]
    refine ⟨fun hnotify => ?_, fun hnotify => ?_⟩
    · rw [State.reportUpdate, if_neg (c := bitOf w1 1 = true) (Bool.eq_false_iff.mp hnotify)]
      rfl
    · rw [State.reportUpdate, if_pos (c := bitOf w1 1 = true) hnotify]
      have hstation : pointStation w0 = w0.toNat / 256 % 64 := field_eq w0 8 6
      rw [hstation, State.point_setPoint]
      rfl
  case commit =>
    rintro rfl h
    obtain ⟨f, hf, haccepts⟩ : ∃ f, w0.toNat % 8 = functionCode f ∧ PointCommand.commit.accepts f = true := by
      rcases h with h | h
      · exact ⟨.write, h, rfl⟩
      · exact ⟨.exchange, h, rfl⟩
    rw [State.pointChecked_accepted hhead.symm hf haccepts]
    dsimp only
    refine ⟨fun hflight => congrArg _ (State.commit_inFlight hflight), fun hflight => ?_⟩
    rw [State.commit_free hflight]
    rw [word_flagBit_not]
  case receivesNot =>
    intro hc h1 h3
    refine congrArg _ (State.pointChecked_refused hhead.symm fun f hf => ?_)
    cases f with
    | read => exact absurd hf h1
    | exchange => exact absurd hf h3
    | write => cases command with
      | hold => rfl
      | release => rfl
      | commit => exact absurd rfl hc
  case sendsNot =>
    rintro rfl h2 h3
    refine congrArg _ (State.pointChecked_refused hhead.symm fun f hf => ?_)
    cases f with
    | read => rfl
    | exchange => exact absurd hf h3
    | write => exact absurd hf h2

/-! ## The result of a post (O42) -/

theorem exec_postCheck {s : State} {args : CommandArgs} {p : BitVec 8} {high : Bool} {deadline : Nat} {tag : BitVec 8}
    (h : s.served.cmd.held = some { args, work := .postCheck p high deadline tag }) :
    exec .demandPostCheckDone s = .next ((s.served.commandReadsOn 4700).postChecked p high deadline tag) := by
  refine congrArg Host.Outcome.next ?_
  unfold State.endPostCheck
  rw [h]
  rfl

section

variable {s : State} {p tag : BitVec 8} {high : Bool} {deadline station : Nat}

theorem State.judgePost_off (h63 : station ≠ 63) (hoff : (s.station station).state = .off) :
    s.judgePost p high deadline tag station = s.complete .refusedState 0 :=
  if_pos ⟨h63, hoff⟩

variable (hstation : station = 63 ∨ (s.station station).state ≠ .off)

include hstation

theorem State.judgePost_full (hfull : 8 ≤ s.demands.length) :
    s.judgePost p high deadline tag station = s.complete .queueFull 8 := by
  unfold State.judgePost
  rw [if_neg fun h => hstation.elim h.1 (absurd h.2), if_pos (c := Config.queuePlaces ≤ s.demands.length) hfull]
  rfl

variable (hroom : s.demands.length < 8)

include hroom

theorem State.judgePost_duplicate (h : duplicateCode s.demands p tag ≠ 0) :
    s.judgePost p high deadline tag station =
      s.complete .duplicate (BitVec.ofNat 16 (duplicateCode s.demands p tag)) := by
  unfold State.judgePost
  rw [if_neg fun h => hstation.elim h.1 (absurd h.2),
    if_neg (c := Config.queuePlaces ≤ s.demands.length) (Nat.not_le.mpr hroom), if_pos h]

theorem State.judgePost_joins (h : duplicateCode s.demands p tag = 0) :
    s.judgePost p high deadline tag station =
      ({ s with
        demands := joinDemand { point := p, station, high, deadline, tag, inFlight := false } s.demands }).complete .done
        (BitVec.ofNat 16 (s.demands.length + 1)) := by
  have hlength := (joinDemand_perm { point := p, station, high, deadline, tag, inFlight := false } s.demands).length_eq
  unfold State.judgePost
  rw [if_neg fun h => hstation.elim h.1 (absurd h.2),
    if_neg (c := Config.queuePlaces ≤ s.demands.length) (Nat.not_le.mpr hroom), if_neg (not_not.mpr h)]
  dsimp only
  rw [hlength, List.length_cons]

end

/-- Which of point and tag the list shares, as the code that DEMAND POST answers (Table 6-2). -/
theorem duplicateCode_eq {list : List Demand} {p tag : BitVec 8} {samePoint sameTag : Bool}
    (hpoint : samePoint = true ↔ ∃ d ∈ list, d.point = p) (htag : sameTag = true ↔ ∃ d ∈ list, d.tag = tag) :
    duplicateCode list p tag = (if samePoint then 1 else 0) + if sameTag then 2 else 0 := by
  have hp : list.any (fun d => d.point == p) = samePoint := Bool.eq_iff_iff.mpr (by rw [hpoint]; simp)
  have ht : list.any (fun d => d.tag == tag) = sameTag := Bool.eq_iff_iff.mpr (by rw [htag]; simp)
  rw [duplicateCode, hp, ht]
  cases samePoint <;> cases sameTag <;> rfl

/-- Settles O42: the record check, then Table 6-2 in its order. -/
theorem postIsJudgedWhenItsCheckEnds : Obligations.PostIsJudgedWhenItsCheckEnds := by
  rintro s₀ s r e args p high deadline tag rfl hheld rfl rfl
  have honly := (s₀.served.commandReadsOn_only 4700)
  have hdemands : s₀.served.demands = (s₀.served.commandReadsOn 4700).endCommandRead.demands := by
    rw [honly]
    rfl
  have hstations (n : Nat) :
      s₀.served.station n = (s₀.served.commandReadsOn 4700).endCommandRead.station n := (honly.station n).symm
  rw [exec_postCheck hheld, hdemands]
  simp only [hstations]
  generalize s₀.served.commandReadsOn 4700 = r
  refine ⟨fun code hcode => ?_, fun record hrecord => ?_⟩
  · rw [State.postChecked, hcode]
    rfl
  rw [State.postChecked, hrecord]
  dsimp only
  generalize r.endCommandRead = e
  refine ⟨fun h63 hoff => congrArg _ (State.judgePost_off h63 hoff), fun hstation =>
    ⟨fun hfull => congrArg _ (State.judgePost_full hstation hfull),
      fun hroom samePoint sameTag hpoint htag => ⟨fun hsame => ?_, ?_⟩⟩⟩
  · have hcode := duplicateCode_eq hpoint htag
    rw [State.judgePost_duplicate hstation hroom (by rcases hsame with h | h <;> simp [hcode, h]), hcode]
  · rintro rfl rfl d rfl
    rw [State.judgePost_joins hstation hroom (duplicateCode_eq hpoint htag)]
    refine ⟨?_, ?_⟩
    · rintro rfl
      rw [joinDemand, if_pos rfl, List.append_cons]
    · rintro rfl
      rfl

/-! ## DEMAND CANCEL (O43) -/

/-- Where tags differ, the first demand with a tag is the only one. -/
theorem eraseP_tag_eq_filter {list : List Demand} (h : (list.map (·.tag)).Nodup) (tag : BitVec 8) :
    list.eraseP (fun e => e.tag == tag) = list.filter (fun e => e.tag != tag) := by
  induction list with
  | nil => rfl
  | cons d rest ih =>
    obtain ⟨hother, hrest⟩ := List.nodup_cons.mp h
    rw [List.eraseP_cons, List.filter_cons]
    by_cases hd : d.tag = tag
    · subst hd
      have hall : rest.filter (fun e => e.tag != d.tag) = rest := List.filter_eq_self.mpr fun e he => by
        simpa using fun heq : e.tag = d.tag => hother (List.mem_map.mpr ⟨e, he, heq⟩)
      simp [hall]
    · have hd : (d.tag == tag) = false := by simpa using hd
      simp [bne, hd, ih hrest]

/-- The demand with a tag is the one found by it. -/
theorem find_tag {list : List Demand} (h : (list.map (·.tag)).Nodup) {d : Demand} (hd : d ∈ list) :
    list.find? (fun e => e.tag == d.tag) = some d := by
  induction list with
  | nil => exact nomatch hd
  | cons e rest ih =>
    obtain ⟨hother, hrest⟩ := List.nodup_cons.mp h
    rcases List.mem_cons.mp hd with rfl | hd
    · simp
    · have hne : e.tag ≠ d.tag := fun heq => hother (List.mem_map.mpr ⟨d, hd, heq.symm⟩)
      rw [List.find?_cons_of_neg (by simpa using hne)]
      exact ih hrest hd

section

variable {s : State} {tag : BitVec 8}

theorem State.demandCancel_illegal (h : byteOf s.cmd.args.arg0 = none) : s.demandCancel = s.complete .badOperand 0 := by
  rw [State.demandCancel, h]

variable (htag : byteOf s.cmd.args.arg0 = some tag)

include htag

theorem State.demandCancel_unknown (h : s.demands.find? (fun d => d.tag == tag) = none) :
    s.demandCancel = s.complete .notFound 0 := by
  unfold State.demandCancel
  rw [htag]
  dsimp only
  rw [h]

theorem State.demandCancel_found {d : Demand} (h : s.demands.find? (fun d => d.tag == tag) = some d) :
    s.demandCancel =
      if d.inFlight then s.complete .late 0
      else (({ s with demands := s.demands.eraseP (fun e => e.tag == tag) }).reportDemand d none .cancelled 0).complete
        .done 0 := by
  unfold State.demandCancel
  rw [htag]
  dsimp only
  rw [h]

end

/-- Settles O43: by the tag, and the demand that carries it. -/
theorem cancelRemovesAWaitingDemand : Obligations.CancelRemovesAWaitingDemand := by
  rintro s₀ s rfl hready hlist
  rw [exec_command (c := .demandCancel) rfl hready]
  generalize s₀.served = s at *
  have hact : (taken s 0x0041).act 0x0041 = (taken s 0x0041).demandCancel := rfl
  rw [hact]
  refine ⟨fun h => congrArg _ (State.demandCancel_illegal (s := taken s 0x0041) (byteOf_none h)), fun h255 =>
    ⟨fun hnone => congrArg _ (State.demandCancel_unknown (s := taken s 0x0041) (byteOf_some h255) ?unknown),
      fun d hd hdtag => ?known⟩⟩
  case unknown =>
    refine List.find?_eq_none.mpr fun d hd heq => hnone d hd ?_
    rw [eq_of_beq heq]
    exact toNat_ofByte h255
  case known =>
    have htag : byteOf s.cmd.args.arg0 = some d.tag := by
      rw [byteOf_some h255, ← hdtag, BitVec.ofNat_toNat, BitVec.setWidth_eq]
    rw [State.demandCancel_found (s := taken s 0x0041) htag (find_tag hlist.tagsDiffer hd)]
    refine ⟨fun h => congrArg _ (if_pos h), fun h => ?_⟩
    rw [if_neg (by simp [h])]
    have herase : (taken s 0x0041).demands.eraseP (fun e => e.tag == d.tag) = _ :=
      eraseP_tag_eq_filter hlist.tagsDiffer d.tag
    rw [herase, State.reportDemand, codeIndex_zero]
    rfl

end Sys2Proof.Machine
end

section
/-! Frames on the line: the words with their CRC, the line code, what a receiver makes of it, and the classification of
an answer (O51). -/

namespace Sys2Proof.Machine

open Sys2Proof.Safety

/-! ## The words of a frame and their CRC (R179) -/

theorem crcStep_eq (register : Word) (bit : Bool) :
    crcStep register bit =
      if bit = register.getLsbD 15 then register <<< 1 else (register <<< 1) ^^^ 0x1021 := by
  unfold crcStep
  by_cases h : bit = register.getLsbD 15
  · rw [if_pos h, if_neg (by simp [h])]
  · rw [if_neg h, if_pos (by simpa using h)]

/-- The CRC takes the bits of the words one by one. -/
theorem crc16_eq (words : List Word) : crc16 words = (words.flatMap wordBits).foldl crcStep 0xFFFF := by
  rw [List.foldl_flatMap]
  unfold crc16 wordBits
  simp only [List.foldl_map]
  rfl

/-! ## The bit times of words -/

theorem wordBits_length (w : Word) : (wordBits w).length = 16 := by rw [wordBits, List.length_map, List.length_range]

theorem wordBits_get (w : Word) {j : Nat} (hj : j < 16) : (wordBits w)[j]? = some (w.getLsbD (15 - j)) := by
  rw [wordBits, List.getElem?_map, List.getElem?_range hj]
  rfl

theorem flatMap_wordBits_length (words : List Word) : (words.flatMap wordBits).length = 16 * words.length := by
  induction words with
  | nil => rfl
  | cons w rest ih => rw [List.flatMap_cons, List.length_append, wordBits_length, ih, List.length_cons]; omega

theorem flatMap_wordBits_get {words : List Word} {i j : Nat} {w : Word} (hw : words[i]? = some w) (hj : j < 16) :
    (words.flatMap wordBits)[16 * i + j]? = some (w.getLsbD (15 - j)) := by
  induction words generalizing i with
  | nil => exact nomatch hw
  | cons v rest ih =>
    rw [List.flatMap_cons]
    cases i with
    | zero =>
      cases hw
      rw [List.getElem?_append_left (by rw [wordBits_length]; omega), Nat.mul_zero, Nat.zero_add, wordBits_get w hj]
    | succ i =>
      rw [List.getElem?_append_right (by rw [wordBits_length]; omega), wordBits_length]
      have hshift : 16 * (i + 1) + j - 16 = 16 * i + j := by omega
      rw [hshift]
      exact ih hw

theorem wordsOnLine_length (words : List Word) : (wordsOnLine words).length = 16 * words.length := by
  rw [wordsOnLine, List.length_map, flatMap_wordBits_length]

theorem frameOnLine_length (words : List Word) : (frameOnLine words).length = 24 + 16 * words.length := by
  rw [frameOnLine, List.length_append, wordsOnLine_length]
  rfl

/-- The 24 bit times before the words. -/
theorem frameOnLine_start (words : List Word) {i : Nat} (hi : i < 24) :
    (frameOnLine words)[i]? = (preamble ++ syncMarker)[i]? := List.getElem?_append_left hi

theorem frameOnLine_word {words : List Word} {i j : Nat} {w : Word} (hw : words[i]? = some w) (hj : j < 16) :
    (frameOnLine words)[24 + 16 * i + j]? = some (bitTime (w.getLsbD (15 - j))) := by
  have hstart : (preamble ++ syncMarker).length = 24 := rfl
  have hshift : 24 + 16 * i + j - 24 = 16 * i + j := by omega
  rw [frameOnLine, List.getElem?_append_right (by rw [hstart]; omega), hstart, hshift, wordsOnLine, List.getElem?_map,
    flatMap_wordBits_get hw hj]
  rfl

/-! ## What a receiver makes of them (R60, R178) -/

/-- Reading the low `n` bits of a word from the most significant one on. -/
theorem foldl_bits (w : Word) (n a : Nat) :
    ((List.range n).map (fun i => w.getLsbD (n - 1 - i))).foldl (fun n b => 2 * n + flagBit b) a =
      a * 2 ^ n + w.toNat % 2 ^ n := by
  induction n generalizing a with
  | zero => simp [Nat.mod_one]
  | succ n ih =>
    have hbit : flagBit (w.getLsbD n) = w.toNat / 2 ^ n % 2 := by
      rw [← BitVec.testBit_toNat, Nat.testBit_eq_decide_div_mod_eq]
      rcases Nat.mod_two_eq_zero_or_one (w.toNat / 2 ^ n) with h | h <;> rw [h] <;> rfl
    have hrest : ((fun i => w.getLsbD (n + 1 - 1 - i)) ∘ Nat.succ) = fun i => w.getLsbD (n - 1 - i) := by
      funext i
      show w.getLsbD (n - (i + 1)) = _
      congr 1
      omega
    rw [List.range_succ_eq_map, List.map_cons, List.map_map, hrest, List.foldl_cons, ih, Nat.pow_succ, Nat.mod_mul]
    show (2 * a + flagBit (w.getLsbD n)) * 2 ^ n + _ = _
    rw [hbit]
    ring

/-- The word made of a word's bits is the word. -/
theorem wordOfBits_wordBits (w : Word) : wordOfBits (wordBits w) = w := by
  have h := foldl_bits w 16 0
  unfold wordOfBits wordBits
  refine BitVec.eq_of_toNat_eq ?_
  rw [BitVec.toNat_ofNat, h, Nat.zero_mul, Nat.zero_add, Nat.mod_mod]
  exact Nat.mod_eq_of_lt w.isLt

theorem words_of_bits (words : List Word) :
    (List.range words.length).map (fun i => wordOfBits (((words.flatMap wordBits).drop (16 * i)).take 16)) = words := by
  induction words with
  | nil => rfl
  | cons w rest ih =>
    rw [List.length_cons, List.range_succ_eq_map, List.map_cons, List.map_map, List.flatMap_cons, Nat.mul_zero,
      List.drop_zero, List.take_left' (wordBits_length w), wordOfBits_wordBits]
    refine congrArg (w :: ·) (Eq.trans (List.map_congr_left fun i _ => ?_) ih)
    have hdrop : ((wordBits w ++ rest.flatMap wordBits).drop (16 * (i + 1))) = (rest.flatMap wordBits).drop (16 * i) := by
      rw [Nat.mul_succ, Nat.add_comm, ← List.drop_drop, List.drop_left' (wordBits_length w)]
    exact congrArg (fun l => wordOfBits (l.take 16)) hdrop

/-- Every bit time of a word begins with a transition. -/
theorem wordsOnLine_boundary (words : List Word) : ∀ b ∈ wordsOnLine words, b.boundary = true := by
  intro b hb
  obtain ⟨bit, -, rfl⟩ := List.mem_map.mp hb
  rfl

/-- What is heard of the words ends with them. -/
theorem takeWhile_boundary (words : List Word) {rest : List BitTime} (h : ∀ b ∈ rest.head?, b.boundary = false) :
    (wordsOnLine words ++ rest).takeWhile (·.boundary) = wordsOnLine words := by
  rw [List.takeWhile_append_of_pos (wordsOnLine_boundary words)]
  have hrest : rest.takeWhile (·.boundary) = [] := by
    cases rest with
    | nil => rfl
    | cons b rest => rw [List.takeWhile_cons, h b rfl]; rfl
  rw [hrest, List.append_nil]

/-- A receiver makes of the words' bit times exactly the words. -/
theorem receiveFrame_wordsOnLine (words : List Word) {rest : List BitTime} (h : ∀ b ∈ rest.head?, b.boundary = false) :
    receiveFrame (wordsOnLine words ++ rest) = { words, tailBits := 0, violation := false } := by
  have hbits : (wordsOnLine words).map (·.middle) = words.flatMap wordBits := by
    rw [wordsOnLine, List.map_map]
    exact List.map_id _
  have hstray : (wordsOnLine words).any (·.stray) = false := List.any_eq_false.mpr fun b hb => by
    obtain ⟨bit, -, rfl⟩ := List.mem_map.mp hb
    exact Bool.false_ne_true
  unfold receiveFrame
  rw [takeWhile_boundary words h]
  dsimp only
  rw [hbits, hstray, flatMap_wordBits_length, Nat.mul_div_cancel_left _ (by decide), Nat.mul_mod_right, words_of_bits]

/-! ## The classification of an answer (R60, R62, R63) -/

/-- The payload of a frame of whole words: what stands between header and CRC word. -/
theorem answerPayload_length {f : AnswerFrame} {w0 w1 : Word} {rest : List Word} (h : f.words = w0 :: w1 :: rest)
    (htail : f.tailBits = 0) (hlength : f.words.length ≤ 35) : (answerPayload f).length = rest.length - 1 := by
  unfold answerPayload
  rw [if_pos htail, List.take_of_length_le hlength, h, List.length_dropLast]
  rfl

theorem answerGarbled_of_short {f : AnswerFrame} (h : f.words.length < 3) : answerGarbled f = true := by
  unfold answerGarbled
  by_cases htail : f.tailBits = 0
  · have hbits : answerBits f < 48 := by unfold answerBits; omega
    simp [hbits]
  · simp [htail]

/-- The faults of R60. -/
theorem answerGarbled_iff {f : AnswerFrame} {w0 w1 : Word} {rest : List Word} (h : f.words = w0 :: w1 :: rest) :
    answerGarbled f = true ↔
      f.violation = true ∨ f.tailBits ≠ 0 ∨ rest = [] ∨ 35 < f.words.length ∨
        w1.toNat / 1024 ≠ rest.length - 1 ∨ some (crc16 f.words.dropLast) ≠ f.words.getLast? := by
  have hlength : (parseAnswerHeader w0 w1).length = w1.toNat / 1024 := by
    have := w1.isLt
    show field w1 10 6 = _
    rw [field_eq]
    omega
  by_cases hviolation : f.violation = true
  · simp [answerGarbled, hviolation]
  by_cases htail : f.tailBits = 0
  swap
  · simp [answerGarbled, htail]
  by_cases hrest : rest = []
  · have := answerGarbled_of_short (f := f) (by rw [h, hrest]; exact Nat.lt_succ_self 2)
    simp [this, hrest]
  have hpositive : 0 < rest.length := List.length_pos_of_ne_nil hrest
  have hwords : f.words.length = rest.length + 2 := by rw [h]; rfl
  have hbits : answerBits f = 16 * (rest.length + 2) := by rw [answerBits, hwords, htail, Nat.add_zero]
  have hlow : ¬answerBits f < 48 := by omega
  by_cases hlong : 35 < f.words.length
  · have hhigh : Config.receptionLimit < answerBits f := by
      show 560 < _
      omega
    simp [answerGarbled, hhigh, hlong]
  have hhigh : ¬Config.receptionLimit < answerBits f := by
    show ¬560 < _
    omega
  have hpayload := answerPayload_length h htail (Nat.not_lt.mp hlong)
  unfold answerGarbled
  rw [← hpayload, ← hlength]
  simp only [htail, hviolation, hrest, hlong, hlow, hhigh, ne_eq, not_true, false_or, decide_false, bne_self_eq_false,
    Bool.or_false, Bool.false_or]
  rw [h]
  simp

section

variable {x : Transfer} {f : AnswerFrame} {w0 w1 : Word} {rest : List Word}

theorem classify_garbled (h : answerGarbled f = true) : classify x f = { outcome := .garbled, condition := none } :=
  if_pos h

theorem parseAnswerHeader_station (w0 w1 : Word) : (parseAnswerHeader w0 w1).station = w0.toNat / 1024 := by
  have := w0.isLt
  show field w0 10 6 = _
  rw [field_eq]
  omega

theorem parseAnswerHeader_length (w0 w1 : Word) : (parseAnswerHeader w0 w1).length = w1.toNat / 1024 := by
  have := w1.isLt
  show field w1 10 6 = _
  rw [field_eq]
  omega

/-- The flags of an answer's condition are bits 0 to 7 of its first word (Tables 10-4 and 10-5). -/
theorem parseAnswerHeader_condition (w0 w1 : Word) {i : Nat} (hi : i < 8) :
    (parseAnswerHeader w0 w1).condition.getLsbD i = w0.getLsbD i := by
  show (w0.extractLsb' 0 8).getLsbD i = _
  rw [BitVec.getLsbD_extractLsb', decide_eq_true hi, Bool.true_and, Nat.zero_add]

/-- Steps 4 to 10 of Table 3-3, by the bits of the header. -/
theorem classifyPoint_eq (w0 w1 : Word) (toggle : Bool) (expected attempt : Nat) :
    classifyPoint (parseAnswerHeader w0 w1) toggle expected attempt =
      if w0.getLsbD 4 then .restarted
      else if w0.getLsbD 9 ≠ toggle then .wrongToggle
      else if w0.getLsbD 7 then .busy
      else if w1.toNat / 1024 ≠ expected then .wrongLength
      else if w0.getLsbD 3 then (if attempt = 1 then .outOfStep else .goodRepeat)
      else .good := by
  have htoggle : (parseAnswerHeader w0 w1).toggleEcho = w0.getLsbD 9 := rfl
  unfold classifyPoint conditionRestarted conditionBusy conditionRepeat
  rw [parseAnswerHeader_condition _ _ (by decide), parseAnswerHeader_condition _ _ (by decide),
    parseAnswerHeader_condition _ _ (by decide), parseAnswerHeader_length, htoggle]
  simp only [bne_iff_ne]

/-- An answer that is not garbled. -/
theorem classify_clean (hwords : f.words = w0 :: w1 :: rest) (h : answerGarbled f = false) :
    classify x f =
      if w0.toNat / 1024 ≠ x.station then { outcome := .wrongStation, condition := none }
      else
        { outcome :=
            if x.kind = .probe then classifyProbe (parseAnswerHeader w0 w1)
            else classifyPoint (parseAnswerHeader w0 w1) x.toggle x.inLength x.attempts
          condition := some (w0.extractLsb' 0 8) } := by
  unfold classify
  rw [if_neg (by simp [h]), hwords]
  dsimp only [List.getD_cons_zero, List.getD_cons_succ]
  rw [parseAnswerHeader_station]
  rfl

end

/-- Settles O51: the frame's words and CRC, the line code both ways, and the classification of an answer. -/
theorem answersAreClassifiedInOrder : Obligations.AnswersAreClassifiedInOrder := by
  refine ⟨fun _ _ _ => rfl, fun words => ?crc, rfl, fun words rest h => receiveFrame_wordsOnLine words h,
    fun words => ⟨frameOnLine_length words, fun i hi => ?preamble, fun i hi => ?sync,
      fun i j w hw hj => frameOnLine_word hw hj⟩,
    fun level => ?levels, fun _ f h => answerGarbled_of_short h, fun x f h => classify_garbled h,
    fun x f w0 w1 rest hwords _ => ⟨answerGarbled_iff hwords, fun hclean hstation => ?wrongStation,
      fun hclean hstation hkind => ?probe, fun hclean hstation hkind => ?point⟩⟩
  case crc =>
    have hstep : crcStep = fun (register : Word) bit =>
        if bit = register.getLsbD 15 then register <<< 1 else (register <<< 1) ^^^ 0x1021 :=
      funext fun register => funext (crcStep_eq register)
    rw [crc16_eq, hstep]
    rfl
  case preamble =>
    have hbits : ∀ i < 16, (preamble ++ syncMarker)[i]? =
        some { boundary := true, middle := decide (i % 2 = 0), stray := false } := by decide
    rw [frameOnLine_start words (by omega), hbits i hi]
  case sync =>
    have hbits : ∀ i < 8, (preamble ++ syncMarker)[16 + i]? =
        some { boundary := decide (i = 0 ∨ i = 4), middle := false, stray := false } := by decide
    rw [frameOnLine_start words (by omega), hbits i hi]
  case levels => cases level <;> rfl
  case wrongStation => rw [classify_clean hwords hclean, if_pos hstation]
  case probe =>
    rw [classify_clean hwords hclean, if_neg (not_not.mpr hstation), if_pos hkind, classifyProbe,
      parseAnswerHeader_length, ite_not]
  case point =>
    rw [classify_clean hwords hclean, if_neg (not_not.mpr hstation), if_neg hkind, classifyPoint_eq]

end Sys2Proof.Machine
end

section
/-! The trunk commands (O44), the training bursts (O45), and how training ends (O46). -/

namespace Sys2Proof.Machine

open Sys2Proof.Safety

/-! ## A burst cut off (R133, R134, R138) -/

/-- A line after a burst on it has been cut off: its own frame is silenced, and a line without a burst stays. -/
def CutFrom (old cut : Trunk) : Prop :=
  (∃ n, old.burst = .sending n) ∧ cut = silencedNow old ∨ (∀ n, old.burst ≠ .sending n) ∧ cut = old

theorem Trunk.dropBurst_eq {old cut : Trunk} (h : CutFrom old cut) : old.dropBurst = { cut with burst := .none } := by
  unfold Trunk.dropBurst
  obtain ⟨⟨n, hn⟩, rfl⟩ | ⟨hnot, rfl⟩ := h
  · rw [hn]
    rfl
  · split
    next n hn => exact absurd hn (hnot n)
    next => rfl
    next hb => rw [← hb]

/-- The detail of a change of state. -/
theorem stateChange_eq (old : Nat) (new cause : Nat) :
    stateChange old new cause = BitVec.ofNat 16 (old * 4096 + (new * 256 + cause)) :=
  congrArg (BitVec.ofNat 16) (Nat.add_assoc _ _ _)

theorem State.report_setTrunk (s : State) (k : TrunkId) (u : Trunk) (kind : EventKind) (trunk : Option TrunkId)
    (station : Nat) (o : OutcomeCode) (item detail : Word) :
    (s.setTrunk k u).report kind trunk station o item detail = (s.report kind trunk station o item detail).setTrunk k u := by
  cases k <;> rfl

/-! ## The trunk commands (O44) -/

theorem trunkOfOperand_named {w : Word} {k : TrunkId} (h : (w = 0 ∧ k = .a) ∨ (w = 1 ∧ k = .b)) :
    trunkOfOperand w = some k := by
  rcases h with ⟨rfl, rfl⟩ | ⟨rfl, rfl⟩ <;> rfl

theorem State.trainEffect_eq (s : State) (k : TrunkId) {cut : Trunk} (h : CutFrom (s.trunk k) cut) :
    s.trainEffect k =
      ((if (s.trunk k).state = .training then s
        else s.report .trunkState (some k) 0 .none 0
          (BitVec.ofNat 16 ((s.trunk k).state.code * 4096 + 0x101))).setTrunk k
        { cut with
          state := .training, faults := 0, training := 0, timer := some (s.set.trainingTimeout.toNat * 10000)
          burst := .waiting, burstDue := some (s.time + 1000) }).complete .done (BitVec.ofNat 16 (s.trunk k).state.code) := by
  have hstart : s.trainingStart (s.trunk k) =
      { cut with
        state := .training, faults := 0, training := 0, timer := some (s.set.trainingTimeout.toNat * 10000)
        burst := .waiting, burstDue := some (s.time + 1000) } := by
    unfold State.trainingStart
    rw [Trunk.dropBurst_eq h]
    rfl
  unfold State.trainEffect
  rw [hstart]
  dsimp only
  split
  · rfl
  · rw [State.reportTrunk, stateChange_eq, State.report_setTrunk]
    rfl

theorem State.offEffect_off {s : State} {k : TrunkId} (h : (s.trunk k).state = .off) : s.offEffect k = s.complete .done 0 :=
  if_pos h

theorem State.offEffect_on {s : State} {k : TrunkId} {cut : Trunk} (hcut : CutFrom (s.trunk k) cut)
    (h : (s.trunk k).state ≠ .off) :
    s.offEffect k =
      ((s.report .trunkState (some k) 0 .none 0 (BitVec.ofNat 16 ((s.trunk k).state.code * 4096 + 2))).setTrunk k
        { cut with state := .off, timer := none, burstDue := none, burst := .none }).complete .done
        (BitVec.ofNat 16 (s.trunk k).state.code) := by
  have hleave : (s.trunk k).leave .off = { cut with state := .off, timer := none, burstDue := none, burst := .none } := by
    unfold Trunk.leave
    rw [Trunk.dropBurst_eq hcut]
  have hdetail : stateChange (s.trunk k).state.code TrunkState.off.code trunkCauseOff =
      BitVec.ofNat 16 ((s.trunk k).state.code * 4096 + 2) := stateChange_eq _ _ _
  unfold State.offEffect
  dsimp only
  rw [if_neg h, State.reportTrunk, hleave, hdetail, State.report_setTrunk]

section

variable {s : State} {k : TrunkId} (command : TrunkCommand)

theorem State.trunkCommand_illegal (h : trunkOfOperand s.cmd.args.arg0 = none) :
    s.trunkCommand command = s.complete .badOperand 0 := by
  rw [State.trunkCommand, h]

theorem State.trunkCommand_held {x : Transfer} (hk : trunkOfOperand s.cmd.args.arg0 = some k) (hx : s.xfer = some x)
    (hon : x.trunk = k) : s.trunkCommand command = s.holdCommand (.trunkHeld command k) := by
  rw [State.trunkCommand, hk]
  exact if_pos (by simp [State.attemptOn, hx, hon])

theorem State.trunkCommand_free (hk : trunkOfOperand s.cmd.args.arg0 = some k)
    (hfree : ∀ x, s.xfer = some x → x.trunk ≠ k) : s.trunkCommand command = s.trunkEffect command k := by
  have hon : s.attemptOn k = false := by
    unfold State.attemptOn
    split
    next x hx => simpa using hfree x hx
    next => rfl
  rw [State.trunkCommand, hk]
  exact if_neg (by simp [hon])

end

/-- Settles O44: an undefined operand, an attempt on the named trunk, and the effect at once. -/
theorem trunkCommandsTakeEffectOrAreHeld : Obligations.TrunkCommandsTakeEffectOrAreHeld := by
  rintro s₀ s rfl hready
  rw [exec_command (c := .trunkTrain) rfl hready, exec_command (c := .trunkOff) rfl hready]
  generalize s₀.served = s
  have htrain : (taken s 0x0050).act 0x0050 = (taken s 0x0050).trunkCommand .train := rfl
  have hoff : (taken s 0x0051).act 0x0051 = (taken s 0x0051).trunkCommand .off := rfl
  rw [htrain, hoff]
  refine ⟨fun h => ?illegal, ?legal⟩
  case illegal =>
    have h := trunkOfOperand_none h
    exact ⟨congrArg _ (State.trunkCommand_illegal (s := taken s 0x0050) .train h),
      congrArg _ (State.trunkCommand_illegal (s := taken s 0x0051) .off h)⟩
  case legal =>
    rintro k old cut hk rfl hcut
    have hk := trunkOfOperand_named hk
    refine ⟨fun x hx hon => ?_, fun hfree => ?_⟩
    · exact ⟨congrArg _ (State.trunkCommand_held (s := taken s 0x0050) .train hk hx hon),
        congrArg _ (State.trunkCommand_held (s := taken s 0x0051) .off hk hx hon)⟩
    · rw [State.trunkCommand_free (s := taken s 0x0050) .train hk hfree,
        State.trunkCommand_free (s := taken s 0x0051) .off hk hfree]
      refine ⟨congrArg _ ((State.trainEffect_eq (taken s 0x0050) k hcut).trans ?_), fun h => ?_, fun h => ?_⟩
      · have hsame : (taken s 0x0050).trunk k = s.trunk k := by cases k <;> rfl
        rw [hsame]
        by_cases ht : (s.trunk k).state = .training
        · rw [if_pos ht, if_pos ht]
          cases k <;> rfl
        · rw [if_neg ht, if_neg ht]
          cases k <;> rfl
      · exact congrArg _ (State.offEffect_off (s := taken s 0x0051) h)
      · refine congrArg _ ((State.offEffect_on (s := taken s 0x0051) hcut h).trans ?_)
        cases k with
        | a => rfl
        | b => rfl

/-! ## Training bursts (O45) -/

/-- The time to a due moment; an overdue one is at once (assumption 24). -/
theorem untilDue_eq (now due : TimeTag) :
    untilDue now due = if (due - now).toNat < 2147483648 then (due - now).toNat else 0 := by
  have hsign : (due - now).msb = true ↔ ¬(due - now).toNat < 2147483648 := by
    rw [BitVec.msb_eq_decide, decide_eq_true_eq]
    omega
  unfold untilDue
  rw [if_congr hsign rfl rfl, ite_not]

theorem Trunk.elapse_burst_none (t : Trunk) (n : Nat) : (t.elapse n).burst = .none ↔ t.burst = .none := by
  unfold Trunk.elapse
  cases t.burst <;> simp

/-- A burst falls due where none waits or is on the line (R136). -/
theorem Trunk.burstFallsDue_eq (t : Trunk) (due : TimeTag) :
    t.burstFallsDue due =
      { t with burstDue := some (due + 1000), burst := if t.burst = .none then .waiting else t.burst } := by
  unfold Trunk.burstFallsDue
  cases t.burst <;> rfl

theorem State.burstFallsDue_training {s : State} {k : TrunkId} {due : TimeTag} (h : (s.trunk k).state = .training)
    (hdue : (s.trunk k).burstDue = some due) :
    s.burstFallsDue k = (s.elapse (untilDue s.time due)).setTrunk k
      (((s.elapse (untilDue s.time due)).trunk k).burstFallsDue due) := by
  rw [State.burstFallsDue, h, hdue]

theorem State.startBurst_waiting {s : State} {k : TrunkId} (h : (s.trunk k).burst = .waiting) :
    s.startBurst k = (s.elapse (max (s.gapLeft k) (s.quietLeft k))).sendBurst k := by
  rw [State.startBurst, h]

/-- Settles O45: a burst that falls due, and one that goes out. -/
theorem burstsFallDueAndWaitForQuiet : Obligations.BurstsFallDueAndWaitForQuiet := by
  refine ⟨?due, ?start⟩
  case due =>
    rintro s₀ s u k due rfl hstate hdue hu
    have hu : u = s₀.served.elapse (untilDue s₀.served.time due) := by
      rw [untilDue_eq]
      obtain ⟨h, rfl⟩ | ⟨h, rfl⟩ := hu
      · rw [if_pos h]
      · rw [if_neg (Nat.not_lt.mpr h)]
    have hburst : (u.trunk k).burst = .none ↔ (s₀.served.trunk k).burst = .none := by
      rw [hu, State.elapse_trunk]
      exact Trunk.elapse_burst_none _ _
    have hexec : exec (.trainingBurstDue k) s₀ = .next (s₀.served.burstFallsDue k) := rfl
    rw [hexec, State.burstFallsDue_training hstate hdue, ← hu, Trunk.burstFallsDue_eq]
    refine congrArg (fun b => Host.Outcome.next (u.setTrunk k { u.trunk k with burstDue := some (due + 1000), burst := b })) ?_
    exact if_congr hburst rfl rfl
  case start =>
    rintro s₀ s u k d rfl hburst rfl rfl
    exact congrArg Host.Outcome.next (State.startBurst_waiting hburst)

/-! ## The end of training (O46) -/

/-- The echo of the part's own frame is clean exactly where it is heard as it was sent and nobody else is (R58, R137). -/
theorem Trunk.judge_clean {t : Trunk} {sent heard : List BitTime} (h : ∀ i < sent.length, heard[i]? = sent[i]?)
    (halone : t.overlapped = false) : t.judge sent heard = .clean :=
  if_neg (by simp [halone, echoMatches_iff.mpr h])

theorem Trunk.judge_mismatch {t : Trunk} {sent heard : List BitTime}
    (h : (∃ i < sent.length, heard[i]? ≠ sent[i]?) ∨ t.overlapped = true) : t.judge sent heard = .mismatch := by
  refine if_pos ?_
  rcases h with ⟨i, hi, hne⟩ | h
  · have hfalse : echoMatches sent heard = false :=
      Bool.eq_false_iff.mpr fun e => hne (echoMatches_iff.mp e i hi)
    rw [hfalse]
    exact Bool.or_true _
  · rw [h]
    rfl

theorem State.endBurst_sending {s : State} {k : TrunkId} {left : Nat} (h : (s.trunk k).burst = .sending left)
    (heard : List BitTime) :
    s.endBurst k heard =
      (s.elapse left).judgeBurst k (((s.elapse left).trunk k).judge (frameOnLine burstWords) heard) := by
  rw [State.endBurst, h]

theorem State.trainingExpires_training {s : State} {k : TrunkId} {left : Nat} (h : (s.trunk k).state = .training)
    (ht : (s.trunk k).timer = some left) : s.trainingExpires k = (s.elapse left).failTraining k := by
  rw [State.trainingExpires, h, ht]

theorem Trunk.elapse_burst_sending (t : Trunk) (n : Nat) :
    (∃ m, (t.elapse n).burst = .sending m) ↔ ∃ m, t.burst = .sending m := by
  unfold Trunk.elapse
  cases t.burst <;> simp

theorem State.bitTimes_eq_zero {s : State} {n : Nat} : s.bitTimes n = 0 ↔ n = 0 := by
  have hhalf : 1 ≤ s.halfMicros := by
    unfold State.halfMicros
    split <;> decide
  unfold State.bitTimes
  refine ⟨fun h => ?_, fun h => by rw [h, Nat.zero_mul]⟩
  have hsmall : n * s.halfMicros < 1 := by omega
  by_contra hn
  have := Nat.mul_le_mul (Nat.one_le_iff_ne_zero.mpr hn) hhalf
  omega

/-- Settles O46: the echo of a burst, the training timer, and activity on a line. -/
theorem trainingEndsReadyOrFailed : Obligations.TrainingEndsReadyOrFailed := by
  refine ⟨?echo, ?timer, ?activity⟩
  case echo =>
    rintro s₀ s u k left b rfl hburst rfl rfl heard
    have hlength : (frameOnLine burstWords).length = 120 := frameOnLine_length burstWords
    have hexec : exec (.burstEchoEnd k heard) s₀ = .next (s₀.served.endBurst k heard) := rfl
    rw [hexec, State.endBurst_sending hburst, ← hlength]
    generalize s₀.served.elapse left = u
    refine ⟨fun h => ?_, fun h halone hfew => ?_, fun h halone hmany => ?_⟩
    · rw [Trunk.judge_mismatch h]
      rfl
    · rw [Trunk.judge_clean h halone]
      exact congrArg _ (if_neg (c := 4 ≤ (u.trunk k).training + 1) (by dsimp only at hfew; omega))
    · rw [Trunk.judge_clean h halone]
      refine congrArg _ ((if_pos (c := 4 ≤ (u.trunk k).training + 1) (Nat.succ_le_succ hmany)).trans ?_)
      rw [State.reportTrunk, State.report_setTrunk]
      rfl
  case timer =>
    rintro s₀ s u k left cut rfl hstate htimer rfl hcut
    have hcut : CutFrom ((s₀.served.elapse left).trunk k) cut := by
      have hsending := Trunk.elapse_burst_sending (s₀.served.trunk k) left
      rw [← State.elapse_trunk] at hsending
      refine hcut.imp (And.imp_left hsending.mpr) (And.imp_left fun h n hn => ?_)
      obtain ⟨m, hm⟩ := hsending.mp ⟨n, hn⟩
      exact h m hm
    have hexec : exec (.trainingTimerExpiry k) s₀ = .next (s₀.served.trainingExpires k) := rfl
    rw [hexec, State.trainingExpires_training hstate htimer, State.failTraining, Trunk.leave, Trunk.dropBurst_eq hcut,
      State.reportTrunk, State.report_setTrunk]
    rfl
  case activity =>
    rintro s₀ s k hit rfl hhit
    have hhit : s₀.served.transmitting k = hit :=
      Bool.eq_iff_iff.mpr ((s₀.served.transmitting_iff k).trans hhit.symm)
    refine ⟨fun bits => ?_, ?_⟩
    · have hexec : exec (.lineActivity { trunk := k, activity := .frame bits }) s₀ =
          .next (s₀.served.lineActivity k (.frame bits)) := rfl
      rw [hexec, State.lineActivity, hhit, State.hear, Trunk.hearFrame, if_congr State.bitTimes_eq_zero rfl rfl]
      rfl
    · have hexec : exec (.lineActivity { trunk := k, activity := .noise }) s₀ =
          .next (s₀.served.lineActivity k .noise) := rfl
      rw [hexec, State.lineActivity, hhit]
      rfl

end Sys2Proof.Machine
end

section
/-! The end of an attempt (O52) and the reports of a transfer's end (O53). -/

namespace Sys2Proof.Machine

open Sys2Proof.Safety

/-! ## The line result of an attempt (R65, R139) -/

theorem OutcomeCode.isTrunkFailure_iff {o : OutcomeCode} : o.isTrunkFailure = true ↔ o = .occupied ∨ o = .echoFault := by
  cases o <;> decide

section

variable {s : State} {x : Transfer} {o : OutcomeCode}

theorem State.lineReport_clean (h : ¬o.isTrunkFailure = true) :
    s.lineReport x o = s.setTrunk x.trunk { s.trunk x.trunk with faults := 0 } := if_neg h

theorem State.lineReport_fault (h : o.isTrunkFailure = true)
    (hlimit : (s.trunk x.trunk).faults + 1 < s.set.trunkFaultLimit.toNat) :
    s.lineReport x o = s.setTrunk x.trunk { s.trunk x.trunk with faults := (s.trunk x.trunk).faults + 1 } :=
  (if_pos h).trans (if_neg (Nat.not_le.mpr hlimit))

/-- A READY line has neither timer nor burst, so the limit changes its state alone. -/
theorem Trunk.leave_ready {t : Trunk} (hinv : TrunkInv t) (h : t.state = .ready) (n : Nat) (new : TrunkState) :
    ({ t with faults := n }).leave new = { t with faults := n, state := new } := by
  have hnot : t.state ≠ .training := fun e => nomatch h.symm.trans e
  have htimer : t.timer = none := Option.not_isSome_iff_eq_none.mp fun e => hnot (hinv.timerInTraining.mpr e)
  have hdue : t.burstDue = none := Option.not_isSome_iff_eq_none.mp fun e => hnot (hinv.burstDueInTraining.mpr e)
  have hburst : t.burst = .none := by
    by_contra hb
    exact hnot (hinv.burstInTraining hb)
  unfold Trunk.leave Trunk.dropBurst
  rw [hburst, htimer, hdue]

theorem State.lineReport_limit (h : o.isTrunkFailure = true) (hinv : TrunkInv (s.trunk x.trunk))
    (hready : (s.trunk x.trunk).state = .ready) (hlimit : s.set.trunkFaultLimit.toNat ≤ (s.trunk x.trunk).faults + 1) :
    s.lineReport x o =
      (s.report .trunkState (some x.trunk) x.station o (x.point.setWidth 16) 0x2305).setTrunk x.trunk
        { s.trunk x.trunk with faults := (s.trunk x.trunk).faults + 1, state := .failed } := by
  have hdetail : stateChange (s.trunk x.trunk).state.code TrunkState.failed.code trunkCauseFaultLimit = 0x2305 := by
    rw [hready]
    rfl
  refine (if_pos h).trans ((if_pos hlimit).trans ?_)
  rw [Trunk.leave_ready hinv hready, State.report_setTrunk, hdetail]

/-! ## A held trunk command (R135) -/

theorem State.releaseHeldTrunk_none {t : TrunkId} (h : noneHeldFor s t) : s.releaseHeldTrunk t = s := by
  unfold State.releaseHeldTrunk
  split
  next held hheld =>
    split
    next command k hwork =>
      refine if_neg fun e => h held command hheld ?_
      rw [hwork, e]
    next => rfl
  next => rfl

theorem State.releaseHeldTrunk_held {t : TrunkId} {args : CommandArgs} {command : TrunkCommand}
    (h : s.cmd.held = some { args, work := .trunkHeld command t }) : s.releaseHeldTrunk t = s.trunkEffect command t := by
  unfold State.releaseHeldTrunk
  rw [h]
  exact if_pos rfl

theorem State.attemptReports_cmd (c : Option (BitVec 8)) : (s.attemptReports x o c).cmd = s.cmd := by
  unfold State.attemptReports
  cases c with
  | none => simp
  | some c => simp

end

/-! ## The decision (R53, R54, R66, R69, R70) -/

theorem goesOn_iff (s : State) : s.cutShort = false ↔ goesOn s := by
  unfold State.cutShort goesOn
  rw [Bool.and_eq_false_iff, beq_eq_false_iff_ne, bne_eq_false_iff_eq]

/-- The trunk of a later attempt (Table 3-2). -/
theorem State.nextTrunk_eq (s : State) (policy : RetryPolicy) (previous : TrunkId) :
    s.nextTrunk policy previous = laterTrunk s policy previous := by
  have hback : otherTrunk (otherTrunk previous) = previous := by cases previous <;> rfl
  unfold State.nextTrunk laterTrunk State.ready
  cases policy with
  | same => simp
  | alternate => simp [hback]

theorem OutcomeCode.retried_iff {o : OutcomeCode} : o.retried = true ↔
    o ∈ [OutcomeCode.noAnswer, .garbled, .wrongStation, .wrongToggle, .wrongLength, .occupied, .echoFault] := by
  cases o <;> decide

section

variable {m : State} {z : Transfer} {o : OutcomeCode}

theorem State.afterAttempt_called (h : z.kind = .point ∨ z.kind = .probe) : m.afterAttempt z o = m.retryOrEnd z o := by
  unfold State.afterAttempt
  rcases h with h | h <;> rw [h]

theorem State.afterAttempt_uncalled (h : z.kind = .broadcast ∨ z.kind = .sync) :
    m.afterAttempt z o = m.turnOrEnd z o := by
  unfold State.afterAttempt
  rcases h with h | h <;> rw [h]

/-- A further attempt is made for a retried outcome, while attempts are left, the round goes on and the transfer is not
detached (R66). -/
theorem retries_iff : (o.retried && decide (z.attempts < z.allowed) && !m.cutShort && !z.detached) = true ↔
    o.retried = true ∧ z.attempts < z.allowed ∧ goesOn m ∧ z.detached = false := by
  rw [← goesOn_iff]
  simp [and_assoc]

end

/-- Settles O52: the line result, the order of the reports, and the decision. -/
theorem attemptEndIsReportedThenDecided : Obligations.AttemptEndIsReportedThenDecided := by
  refine ⟨?line, ?order, fun m z o => ⟨fun hkind => ?called, fun hkind => ?uncalled⟩⟩
  case line =>
    rintro s x o k rfl hinv hready
    refine ⟨fun h1 h2 => State.lineReport_clean fun h => (OutcomeCode.isTrunkFailure_iff.mp h).elim h1 h2, fun h => ?_⟩
    have h := OutcomeCode.isTrunkFailure_iff.mpr h
    exact ⟨State.lineReport_fault h, State.lineReport_limit h hinv hready⟩
  case order =>
    rintro s m x z o condition rfl rfl
    have hreports : s.attemptReports (x.withOutcome o) o condition =
        (match condition with
          | none => s.lineReport (x.withOutcome o) o
          | some c => (s.lineReport (x.withOutcome o) o).conditionReport (x.withOutcome o) o c) := by
      cases condition <;> rfl
    have hcmd := State.attemptReports_cmd (s := s) (x := x.withOutcome o) (o := o) condition
    unfold State.endAttempt
    refine ⟨fun h => ?_, fun args command h => ?_⟩
    · rw [State.releaseHeldTrunk_none (by rwa [noneHeldFor, hcmd]), hreports]
      rfl
    · rw [State.releaseHeldTrunk_held (by rw [hcmd, h]), hreports]
      rfl
  case called =>
    rw [State.afterAttempt_called hkind]
    unfold State.retryOrEnd
    refine ⟨fun ho hleft hgoes hdetached => ?_, fun h => ?_⟩
    · rw [if_pos (retries_iff.mpr ⟨OutcomeCode.retried_iff.mpr ho, hleft, hgoes, hdetached⟩), State.nextTrunk_eq]
      refine ⟨fun k hk => ?_, fun hk => ?_⟩
      · rw [hk]
        exact State.beginAttempt_eq m z k
      · rw [hk]
    · refine if_neg fun hretries => ?_
      obtain ⟨ho, hleft, hgoes, hdetached⟩ := retries_iff.mp hretries
      obtain h | h | h | h := h
      · exact h (OutcomeCode.retried_iff.mp ho)
      · omega
      · exact h hgoes
      · exact nomatch hdetached.symm.trans h
  case uncalled =>
    rw [State.afterAttempt_uncalled hkind]
    unfold State.turnOrEnd
    have hready : m.ready .b = true ↔ m.trunkB.state = .ready := by simp [State.ready, State.trunk]
    refine ⟨fun ha hb hgoes => ?_, fun h => if_neg ?_⟩
    · rw [if_pos ⟨ha, hready.mpr hb, (goesOn_iff m).mpr hgoes⟩, State.beginAttempt_eq]
    · rintro ⟨ha, hb, hgoes⟩
      obtain h | h | h := h
      · exact nomatch ha.symm.trans h
      · exact h (hready.mp hb)
      · exact h ((goesOn_iff m).mp hgoes)

/-! ## The reports of a transfer's end (O53) -/

theorem OutcomeCode.isReported_iff {o : OutcomeCode} :
    o.isReported = true ↔ o ∉ [OutcomeCode.good, .goodRepeat, .busy, .sent] := by
  cases o <;> decide

theorem OutcomeCode.isGood_iff {o : OutcomeCode} : o.isGood = true ↔ o = .good ∨ o = .goodRepeat := by
  cases o <;> decide

/-- The entry at a report's end: IN FLIGHT is cleared and the last outcome kept (R72, R103). -/
def PointEntry.closed (e : PointEntry) (o : OutcomeCode) : PointEntry := { e with lastOutcome := o, inFlight := false }

/-- A delivered transfer clears COMMITTED and stamps the entry (R107, R114). -/
def PointEntry.stamped (e : PointEntry) (sweep : Word) (round : Nat) : PointEntry :=
  { e with committed := false, stampSweep := sweep, stampRound := round }

theorem PointEntry.ended_point (e : PointEntry) (o : OutcomeCode) (sweep : Word) (round : Nat) :
    e.ended .point o sweep round = if o.isGood then (e.closed o).stamped sweep round else e.closed o := by
  unfold PointEntry.ended
  cases o.isGood <;> rfl

theorem PointEntry.ended_broadcast (e : PointEntry) (o : OutcomeCode) (sweep : Word) (round : Nat) :
    e.ended .broadcast o sweep round = if o = .sent then (e.closed o).stamped sweep round else e.closed o := by
  unfold PointEntry.ended
  by_cases h : o = .sent <;> simp [h, PointEntry.closed, PointEntry.stamped]

section

variable {s : State} {x : Transfer} {o : OutcomeCode} {r : PointRecord}

theorem State.pointReport_point (hvalues : x.values = some r) (hkind : x.kind = .point) :
    s.pointReport x o =
      if o.isGood && r.function.usesIn then
        if ((s.point x.point).ended .point o s.eng.sweep s.eng.round).hold then
          s.setPoint x.point { (s.point x.point).ended .point o s.eng.sweep s.eng.round with pending := true }
        else
          (s.setPoint x.point ((s.point x.point).ended .point o s.eng.sweep s.eng.round).flip).reportUpdate r.notify
            (some x.trunk) r.station o x.point
      else s.setPoint x.point ((s.point x.point).ended .point o s.eng.sweep s.eng.round) := by
  unfold State.pointReport
  rw [hkind, hvalues]

theorem State.pointReport_broadcast (hvalues : x.values = some r) (hkind : x.kind = .broadcast) :
    s.pointReport x o = s.setPoint x.point ((s.point x.point).ended .broadcast o s.eng.sweep s.eng.round) := by
  unfold State.pointReport
  rw [hkind, hvalues]

theorem State.pointReport_none (hkind : x.kind = .probe ∨ x.kind = .sync) : s.pointReport x o = s := by
  unfold State.pointReport
  rcases hkind with h | h <;> rw [h]

theorem State.faultReport_none (hkind : x.kind = .probe ∨ x.kind = .sync) : s.faultReport x o = s := by
  unfold State.faultReport
  rcases hkind with h | h <;> rw [h]

theorem State.faultReport_some (hvalues : x.values = some r) (hkind : x.kind = .point ∨ x.kind = .broadcast) :
    s.faultReport x o =
      if r.report && o.isReported then
        s.report .transferFault (some x.trunk) x.station o (x.point.setWidth 16) x.faultDetail
      else s := by
  unfold State.faultReport
  rcases hkind with h | h <;> rw [h, hvalues]

theorem State.stationReport_uncalled (hkind : x.kind = .broadcast ∨ x.kind = .sync) : s.stationReport x o = s := by
  unfold State.stationReport
  split
  · rfl
  · rcases hkind with h | h <;> rw [h]

theorem PointFunction.usesIn_iff {f : PointFunction} : f.usesIn = true ↔ f ≠ .write := by cases f <;> decide

end

/-- Settles O53: the order of the four reports, and each of them by kind of transfer and outcome. -/
theorem transferEndReportsInOrder : Obligations.TransferEndReportsInOrder := by
  refine ⟨?order, ?reports, fun s x o => ⟨fun hkind => ⟨State.pointReport_none hkind, State.faultReport_none hkind⟩,
    State.stationReport_uncalled⟩, fun s x o => ⟨fun htag => ?noDemand, fun tag d htag hd => ?demand⟩⟩
  case order =>
    rintro s x o w rfl
    exact ⟨fun ho => congrArg State.endSlot (if_neg ho), fun ho => congrArg State.endSlot (if_pos ho)⟩
  case reports =>
    rintro s x o r closed delivered hvalues rfl rfl
    refine ⟨fun hkind ho => ?good, fun hkind h1 h2 => ?failed, fun hkind ho => ?sent, fun hkind ho => ?unsent,
      fun hkind => State.pointReport_none (.inl hkind), fun hkind hreport ho => ?told, fun h => ?untold⟩
    case good =>
      have hgood := OutcomeCode.isGood_iff.mpr ho
      rw [State.pointReport_point hvalues hkind, PointEntry.ended_point, if_pos hgood, hgood, Bool.true_and]
      refine ⟨fun hf => if_neg fun h => PointFunction.usesIn_iff.mp h hf, fun hf hhold => ?_, ?_⟩
      · rw [if_pos (PointFunction.usesIn_iff.mpr hf)]
        exact if_pos hhold
      · rintro hf hhold u rfl
        rw [if_pos (PointFunction.usesIn_iff.mpr hf),
          if_neg (c := (((s.point x.point).closed o).stamped s.eng.sweep s.eng.round).hold = true)
            (Bool.eq_false_iff.mp hhold)]
        unfold State.reportUpdate
        rw [State.point_setPoint]
        exact ⟨fun hn => if_neg (Bool.eq_false_iff.mp hn), fun hn => if_pos hn⟩
    case failed =>
      have hgood : ¬o.isGood = true := fun h => (OutcomeCode.isGood_iff.mp h).elim h1 h2
      rw [State.pointReport_point hvalues hkind, PointEntry.ended_point, if_neg hgood, if_neg (by simp [hgood])]
      rfl
    case sent =>
      rw [State.pointReport_broadcast hvalues hkind, PointEntry.ended_broadcast, if_pos ho]
      rfl
    case unsent =>
      rw [State.pointReport_broadcast hvalues hkind, PointEntry.ended_broadcast, if_neg ho]
      rfl
    case told =>
      have hdetail : x.faultDetail = BitVec.ofNat 16 (x.attempts + if x.demandTag = none then 0 else 0x100) := by
        unfold Transfer.faultDetail
        cases x.demandTag <;> rfl
      rw [State.faultReport_some hvalues hkind, hreport, OutcomeCode.isReported_iff.mpr ho, hdetail]
      rfl
    case untold =>
      by_cases hkind : x.kind = .probe ∨ x.kind = .sync
      · exact State.faultReport_none hkind
      have hpoint : x.kind = .point ∨ x.kind = .broadcast := by
        cases hk : x.kind <;> simp [hk] at hkind ⊢
      rw [State.faultReport_some hvalues hpoint]
      refine if_neg fun hreported => ?_
      obtain ⟨hreport, ho⟩ := (Bool.and_eq_true _ _).mp hreported
      obtain h | h | h := h
      · exact hkind (.inl h)
      · exact nomatch hreport.symm.trans h
      · exact OutcomeCode.isReported_iff.mp ho h
  case noDemand =>
    unfold State.demandReport
    rw [htag]
  case demand =>
    unfold State.demandReport
    rw [htag, hd]
    rfl

end Sys2Proof.Machine
end

section
/-! Getting onto the line: the wait for gap and quiet, and the call that goes out (O47). -/

namespace Sys2Proof.Machine

open Sys2Proof.Safety

/-! ## Time and the wait before a call (R55, R56) -/

section

variable {s : State} {x : Transfer} (n : Nat) (hx : s.xfer = some x)

include hx

theorem State.elapse_gap_before (hp : x.phase = .gap) (h : n < s.gapLeft x.trunk) : (s.elapse n).xfer = some x := by
  show (s.elapseAttempt n).xfer = _
  rw [State.elapseAttempt, hx]
  dsimp only
  rw [hp]
  dsimp only
  rw [if_neg (Nat.not_le.mpr h), hx]

theorem State.elapse_gap_after (hp : x.phase = .gap) (h : s.gapLeft x.trunk ≤ n) :
    (s.elapse n).xfer = some
      { x with
        phase := waitForQuiet s.set.occupancyGuard.toNat false (s.quietLeft x.trunk - s.gapLeft x.trunk)
          (n - s.gapLeft x.trunk) } := by
  show (s.elapseAttempt n).xfer = _
  rw [State.elapseAttempt, hx]
  dsimp only
  rw [hp]
  dsimp only
  rw [if_pos h]

theorem State.elapse_occupancy {left : Nat} {lapsed : Bool} (hp : x.phase = .occupancy left lapsed) :
    (s.elapse n).xfer = some { x with phase := waitForQuiet left lapsed (s.quietLeft x.trunk) n } := by
  show (s.elapseAttempt n).xfer = _
  rw [State.elapseAttempt, hx]
  dsimp only
  rw [hp]

end

/-- The guard lapses where it runs out before the line is quiet. -/
theorem waitForQuiet_lapsed (left quiet n : Nat) (lapsed : Bool) : ∃ lapsed',
    waitForQuiet left lapsed quiet n = .occupancy (left - n) lapsed' ∧
      (lapsed' = true ↔ lapsed = true ∨ left < quiet ∧ left ≤ n) :=
  ⟨_, rfl, by simp⟩

/-! ## The events -/

theorem State.onTransfer_some {s : State} {x : Transfer} (h : s.xfer = some x) (work : State → Transfer → State) :
    s.onTransfer work = work s x := by
  rw [State.onTransfer, h]

section

variable {s : State} {x : Transfer} {d : Nat}

theorem State.startCall_some (h : s.transmitDelay x = some d) : s.startCall x = (s.elapse d).onTransfer State.sendCall := by
  rw [State.startCall, h]

theorem State.startCall_none (h : s.transmitDelay x = none) : s.startCall x = s := by rw [State.startCall, h]

theorem State.endGuard_some (h : s.guardDelay x = some d) :
    s.endGuard x = (s.elapse d).onTransfer State.guardRunsOut := by
  rw [State.endGuard, h]

theorem State.endGuard_none (h : s.guardDelay x = none) : s.endGuard x = s := by rw [State.endGuard, h]

theorem State.transmitDelay_gap (h : x.phase = .gap) : s.transmitDelay x =
    if s.quietLeft x.trunk ≤ s.gapLeft x.trunk + s.set.occupancyGuard.toNat then
      some (max (s.gapLeft x.trunk) (s.quietLeft x.trunk))
    else none := by
  rw [State.transmitDelay, h]
  rfl

theorem State.transmitDelay_occupancy {left : Nat} {lapsed : Bool} (h : x.phase = .occupancy left lapsed) :
    s.transmitDelay x = if lapsed = false ∧ s.quietLeft x.trunk ≤ left then some (s.quietLeft x.trunk) else none := by
  rw [State.transmitDelay, h]

theorem State.guardDelay_gap (h : x.phase = .gap) : s.guardDelay x =
    if s.gapLeft x.trunk < s.quietLeft x.trunk ∧
        s.gapLeft x.trunk + s.set.occupancyGuard.toNat ≤ s.quietLeft x.trunk then
      some (s.gapLeft x.trunk + s.set.occupancyGuard.toNat)
    else none := by
  rw [State.guardDelay, h]
  rfl

theorem State.guardDelay_occupancy {left : Nat} {lapsed : Bool} (h : x.phase = .occupancy left lapsed) :
    s.guardDelay x =
      if lapsed = true ∨ 0 < s.quietLeft x.trunk ∧ left ≤ s.quietLeft x.trunk then some left else none := by
  rw [State.guardDelay, h]

/-- The gap counts from the last frame that has ended; one on the line moves it only if it ends before (R56, R132). -/
theorem State.gapLeft_eq (s : State) (k : TrunkId) : s.gapLeft k =
    if 0 < (s.trunk k).frameLeft ∧ (s.trunk k).frameLeft < (s.trunk k).gapHold - (16 - s.bitTimes 8) then
      max ((s.trunk k).gapHold - (16 - s.bitTimes 8)) ((s.trunk k).frameLeft + s.bitTimes 8)
    else (s.trunk k).gapHold - (16 - s.bitTimes 8) := by
  have h : (decide (0 < (s.trunk k).frameLeft) &&
      decide ((s.trunk k).frameLeft < (s.trunk k).gapHold - (16 - s.bitTimes 8))) = true ↔
      0 < (s.trunk k).frameLeft ∧ (s.trunk k).frameLeft < (s.trunk k).gapHold - (16 - s.bitTimes 8) := by
    rw [Bool.and_eq_true, decide_eq_true_iff, decide_eq_true_iff]
  exact if_congr h rfl rfl

end

/-! ## The call that goes out (R57, Table 10-2) -/

/-- The header's first word keeps its three fields. -/
theorem callHeader0_toNat {station code : Nat} (toggle : Bool) (hstation : station < 64) (hcode : code < 8) :
    (callHeader0 station code toggle).toNat = station * 1024 + code * 128 + if toggle then 64 else 0 := by
  unfold callHeader0
  rw [BitVec.toNat_ofNat]
  cases toggle
  · simp [flagBit]; omega
  · simp [flagBit]; omega

theorem callHeader1_toNat (objectIndex : BitVec 8) {length : Nat} (h : length < 256) :
    (callHeader1 objectIndex length).toNat = objectIndex.toNat * 256 + length := by
  have := objectIndex.isLt
  unfold callHeader1
  rw [BitVec.toNat_ofNat]
  omega

section

variable {x : Transfer} {r : PointRecord}

theorem Transfer.callLength_point (hkind : x.kind = .point ∨ x.kind = .broadcast) (hvalues : x.values = some r) :
    x.callLength = if r.function = .read then 0 else r.outLength := by
  have huses : r.function.usesOut = true ↔ ¬r.function = .read := by cases r.function <;> decide
  unfold Transfer.callLength
  rw [← ite_not, ← if_congr huses rfl rfl]
  rcases hkind with h | h <;> rw [h, hvalues]

theorem Transfer.header0_point (hkind : x.kind = .point ∨ x.kind = .broadcast) (hvalues : x.values = some r) :
    x.header0 = callHeader0 x.station (match r.function with | .read => 1 | .write => 2 | .exchange => 3) x.toggle := by
  unfold Transfer.header0 callFunctionCode
  rw [hvalues]
  dsimp only
  rcases hkind with h | h <;> rw [h] <;> rfl

theorem Transfer.header1_point (hkind : x.kind = .point ∨ x.kind = .broadcast) (hvalues : x.values = some r) :
    x.header1 = callHeader1 r.objectIndex x.callLength := by
  unfold Transfer.header1
  rcases hkind with h | h <;> rw [h, hvalues]

end

/-- Settles O47: the call, the guard, the wait, the gap and quiet, and the header. -/
theorem callGoesOutOrFindsTheLineOccupied : Obligations.CallGoesOutOrFindsTheLineOccupied := by
  refine ⟨?call, ?guard, ?wait, ?line, fun x hstation => ⟨fun r hkind hvalues hlength => ?point, fun hkind htoggle => ?probe,
    fun hkind htoggle => ?sync⟩⟩
  case call =>
    rintro s₀ s u x d gap quiet rfl hx rfl rfl h rfl
    have hexec : exec .callTransmitStart s₀ = .next (s₀.served.onTransfer State.startCall) := rfl
    rw [hexec, State.onTransfer_some hx]
    generalize s₀.served = s at *
    obtain ⟨n, rfl, hdelay⟩ : ∃ n, u = s.elapse n ∧ s.transmitDelay x = some n := by
      obtain ⟨hp, hquiet, rfl⟩ | ⟨⟨left, hp, hquiet⟩, rfl⟩ := h
      · exact ⟨_, rfl, (State.transmitDelay_gap hp).trans (if_pos hquiet)⟩
      · exact ⟨_, rfl, (State.transmitDelay_occupancy hp).trans (if_pos ⟨rfl, hquiet⟩)⟩
    obtain ⟨p, hy⟩ := State.elapse_xfer hx n
    rw [State.startCall_some hdelay, State.onTransfer_some hy, State.sendCall, State.syncPayload, State.elapse_eng]
    rfl
  case guard =>
    rintro s₀ s x gap quiet guard rfl hx rfl rfl rfl
    have hexpiry : exec .occupancyGuardExpiry s₀ = .next (s₀.served.onTransfer State.endGuard) := rfl
    have hstart : exec .callTransmitStart s₀ = .next (s₀.served.onTransfer State.startCall) := rfl
    rw [hexpiry, hstart, State.onTransfer_some hx, State.onTransfer_some hx]
    generalize s₀.served = s at *
    refine ⟨?gapEnds, ?guardEnds, fun h => congrArg _ (State.endGuard_none ?_), fun h => congrArg _ (State.startCall_none ?_)⟩
    case gapEnds =>
      rintro hp h1 h2 u y rfl hy
      rw [State.endGuard_some ((State.guardDelay_gap hp).trans (if_pos ⟨h1, h2⟩)), State.onTransfer_some hy]
      rfl
    case guardEnds =>
      rintro left lapsed hp h u y rfl hy
      rw [State.endGuard_some ((State.guardDelay_occupancy hp).trans (if_pos h)), State.onTransfer_some hy]
      rfl
    · obtain ⟨hp, h⟩ | ⟨left, hp, h⟩ := h
      · exact (State.guardDelay_gap hp).trans (if_neg (by omega))
      · refine (State.guardDelay_occupancy hp).trans (if_neg ?_)
        rintro (hlapsed | hleft)
        · exact Bool.false_ne_true hlapsed
        · omega
    · obtain ⟨hp, h⟩ | ⟨left, lapsed, hp, h⟩ := h
      · exact (State.transmitDelay_gap hp).trans (if_neg (by omega))
      · refine (State.transmitDelay_occupancy hp).trans (if_neg ?_)
        rintro ⟨hlapsed, hleft⟩
        rcases h with h | h
        · exact nomatch hlapsed.symm.trans h
        · omega
  case wait =>
    rintro s x n gap quiet guard hx rfl rfl rfl
    refine ⟨fun hp h => State.elapse_gap_before n hx hp h, fun hp h => ?_, fun left lapsed hp => ?_⟩
    · obtain ⟨lapsed, hwait, hlapsed⟩ := waitForQuiet_lapsed s.set.occupancyGuard.toNat
        (s.quietLeft x.trunk - s.gapLeft x.trunk) (n - s.gapLeft x.trunk) false
      refine ⟨lapsed, by rw [State.elapse_gap_after n hx hp h, hwait], hlapsed.trans ?_⟩
      rw [or_iff_right Bool.false_ne_true]
      omega
    · obtain ⟨lapsed', hwait, hlapsed⟩ := waitForQuiet_lapsed left (s.quietLeft x.trunk) n lapsed
      exact ⟨lapsed', by rw [State.elapse_occupancy n hx hp, hwait], hlapsed⟩
  case line =>
    rintro s k left frame rfl rfl
    rw [State.gapLeft_eq]
    exact ⟨fun h => if_neg (by omega), fun h0 h => if_pos ⟨h0, h⟩, rfl⟩
  case point =>
    have hcall := Transfer.callLength_point hkind hvalues
    have hshort : x.callLength < 256 := by
      rw [hcall]
      split <;> omega
    refine ⟨hcall, ?_, ?_⟩
    · rw [Transfer.header0_point hkind hvalues]
      exact callHeader0_toNat _ hstation (by cases r.function <;> decide)
    · rw [Transfer.header1_point hkind hvalues, callHeader1_toNat _ hshort]
  case probe =>
    have hcall : x.callLength = 0 := by unfold Transfer.callLength; rw [hkind]
    have hheader0 : x.header0 = callHeader0 x.station 4 false := by unfold Transfer.header0; rw [hkind, htoggle]; rfl
    have hheader1 : x.header1 = callHeader1 0 0 := by unfold Transfer.header1; rw [hkind, hcall]
    refine ⟨hcall, ?_, hheader1.trans rfl⟩
    rw [hheader0, callHeader0_toNat _ hstation (by decide)]
    exact Nat.add_zero _
  case sync =>
    have hcall : x.callLength = 4 := by unfold Transfer.callLength; rw [hkind]
    have hheader0 : x.header0 = callHeader0 x.station 5 false := by unfold Transfer.header0; rw [hkind, htoggle]; rfl
    have hheader1 : x.header1 = callHeader1 0 4 := by unfold Transfer.header1; rw [hkind, hcall]
    refine ⟨hcall, ?_, hheader1.trans rfl⟩
    rw [hheader0, callHeader0_toNat _ hstation (by decide)]
    exact Nat.add_zero _

end Sys2Proof.Machine
end

section
/-! The call on the line and its echo (O48), the answer's sync marker (O49), and the end of the answer (O50). -/

namespace Sys2Proof.Machine

open Sys2Proof.Safety

/-! ## Words as the line comes to them -/

theorem State.served_of_nothingWaits {s : State} (h : nothingWaits s) : s.served = s := by
  obtain ⟨hengine, hcommand, hwriter⟩ := h
  exact if_pos (by simp [hengine, hcommand, hwriter])

theorem State.halfMicros_pos (s : State) : 1 ≤ s.halfMicros := by
  unfold State.halfMicros
  split <;> decide

/-- Payload word `i` of a call is needed at bit time 56 + 16i (R57). -/
theorem lt_wordsNeeded {h elapsed length i : Nat} (hpos : 1 ≤ h) (hi : i < length) :
    i < wordsNeeded h elapsed length ↔ (56 + 16 * i) * h ≤ 2 * elapsed := by
  have hsplit : (56 + 16 * i) * h = 56 * h + i * (16 * h) := by ring
  unfold wordsNeeded
  rw [hsplit]
  split
  next hearly => omega
  next hlate =>
    rw [lt_min_iff, Nat.lt_succ_iff, Nat.le_div_iff_mul_le (by omega)]
    omega

theorem wordsNeeded_le (h elapsed length : Nat) : wordsNeeded h elapsed length ≤ length := by
  unfold wordsNeeded
  split
  · exact Nat.zero_le _
  · exact Nat.min_le_left _ _

/-- Payload word `i` of an answer is whole at bit time 40 + 16(i + 1) after the marker (R61). -/
theorem lt_wordsArrived {h elapsed length i : Nat} (hpos : 1 ≤ h) (hi : i < length) :
    i < wordsArrived h elapsed length ↔ (40 + 16 * (i + 1)) * h ≤ 2 * elapsed := by
  have hsplit : (40 + 16 * (i + 1)) * h = 40 * h + (i + 1) * (16 * h) := by ring
  have hpositive : 0 < (i + 1) * (16 * h) := Nat.mul_pos (Nat.succ_pos i) (by omega)
  have hbits : Config.syncBits + Config.headerBits = 40 := rfl
  have hdiv : i < (2 * elapsed - 40 * h) / (16 * h) ↔ (i + 1) * (16 * h) ≤ 2 * elapsed - 40 * h :=
    Nat.le_div_iff_mul_le (by omega)
  unfold wordsArrived
  rw [hsplit, hbits, lt_min_iff, hdiv]
  generalize (i + 1) * (16 * h) = words at *
  omega

theorem wordsArrived_le (h elapsed length : Nat) : wordsArrived h elapsed length ≤ length := Nat.min_le_left _ _

/-- The transmit path reads the next words; where nothing else waits it reads them of the RAM as it stands (R57, R115). -/
theorem State.readPayload_words (n : Nat) (s : State) (page : Nat) (payload : List Word) : ∃ words : List Word,
    (s.readPayload page payload n).2 = payload ++ words ∧ words.length = n ∧
    (nothingWaits s →
      (s.readPayload page payload n).1.ram = s.ram ∧
      ∀ i < n, words[i]? = some (s.ram.read ((page + (payload.length + i)) % 16384))) := by
  induction n generalizing s payload with
  | zero => exact ⟨[], (List.append_nil _).symm, rfl, fun _ => ⟨rfl, fun i hi => absurd hi (Nat.not_lt_zero i)⟩⟩
  | succ n ih =>
    obtain ⟨words, hwords, hlength, hquiet⟩ := ih s.served (payload ++ [s.readRam (page + payload.length)])
    refine ⟨s.readRam (page + payload.length) :: words, ?_, congrArg Nat.succ hlength, fun h => ?_⟩
    · rw [State.readPayload, hwords, List.append_assoc, List.singleton_append]
    · have hserved := State.served_of_nothingWaits h
      rw [hserved] at hquiet
      obtain ⟨hram, hreads⟩ := hquiet h
      refine ⟨by rw [State.readPayload, hserved, hram], fun i hi => ?_⟩
      cases i with
      | zero => rfl
      | succ i =>
        have hplace : payload.length + (i + 1) = (payload ++ [s.readRam (page + payload.length)]).length + i := by
          rw [List.length_append, List.length_singleton]
          omega
        rw [List.getElem?_cons_succ, hplace]
        exact hreads i (by omega)

/-- The receive path stores the words at consecutive addresses and, where nothing else waits, no other (R61). -/
theorem State.storeAnswer_ram (words : List Word) {s : State} {a : Nat} (hquiet : nothingWaits s) (hwf : RamCanonical s)
    (hfit : a + words.length ≤ 16384) :
    (∀ i w, words[i]? = some w → (s.storeAnswer a words).ram.read (a + i) = w) ∧
    ∀ b < 16384, b < a ∨ a + words.length ≤ b → (s.storeAnswer a words).ram.read b = s.ram.read b := by
  induction words generalizing s a with
  | nil => exact ⟨fun i w h => absurd h (by simp), fun _ _ _ => rfl⟩
  | cons w rest ih =>
    rw [List.length_cons] at hfit
    have hserved : (s.writeRam a w).served = s.writeRam a w := State.served_of_nothingWaits hquiet
    have hplace : ramAddress a = a := ramAddress_of_lt (by unfold Config.ramWords; omega)
    have hram : (s.writeRam a w).ram = s.ram.write a w := by rw [State.writeRam, hplace]
    obtain ⟨hwords, hothers⟩ := ih (s := s.writeRam a w) (a := a + 1) hquiet (State.writeRam_wf a w hwf) (by omega)
    rw [State.storeAnswer, hserved]
    rw [hram] at hothers
    refine ⟨fun i v h => ?_, fun b hb hout => ?_⟩
    · cases i with
      | zero =>
        cases h
        exact (hothers a (by omega) (by omega)).trans (Ram.read_write_same hwf)
      | succ i =>
        have hstep : a + (i + 1) = a + 1 + i := by omega
        rw [hstep]
        exact hwords i v h
    · rw [List.length_cons] at hout
      exact (hothers b hb (by omega)).trans (Ram.read_write_other (by omega))

/-! ## Time and the call and the answer -/

section

variable {s : State} {x : Transfer} (d : Nat) (hx : s.xfer = some x)

include hx

/-- The RAM after the words of a call have been read (R57). -/
theorem State.elapse_sending_ram {el n : Nat} {h0 h1 : Word} {pl : List Word} (hp : x.phase = .sending el h0 h1 n pl) :
    (s.elapse d).ram =
      (s.readPayload (s.sendPage x) pl (wordsNeeded s.halfMicros (el + d) n - pl.length)).1.ram := by
  show (s.elapseAttempt d).ram = _
  rw [State.elapseAttempt, hx]
  dsimp only
  rw [hp]

/-- While an answer is received, time stores its payload at the page chosen (R61). -/
theorem State.elapse_stores {el k want : Nat} {f : AnswerFrame} {page : Option Nat}
    (hp : x.phase = .receiving el f page k)
    (hwant : want = wordsArrived s.halfMicros (el + d) (min (answerPayload f).length x.inLength)) :
    (s.elapse d).xfer = some { x with phase := .receiving (el + d) f page (max k want) } ∧
      (page = none → (s.elapse d).ram = s.ram) ∧
      ∀ a, page = some a → (s.elapse d).ram =
        (({ s with xfer := some { x with phase := .receiving (el + d) f page (max k want) } }).storeAnswer (a + k)
          (((answerPayload f).take want).drop k)).ram := by
  subst hwant
  have hattempt : s.elapseAttempt d =
      (match page with
        | none =>
          { s with
            xfer := some
              { x with
                phase := .receiving (el + d) f page
                  (max k (wordsArrived s.halfMicros (el + d) (min (answerPayload f).length x.inLength))) } }
        | some a =>
          ({ s with
            xfer := some
              { x with
                phase := .receiving (el + d) f page
                  (max k (wordsArrived s.halfMicros (el + d) (min (answerPayload f).length x.inLength))) } }).storeAnswer
            (a + k)
            (((answerPayload f).take
              (wordsArrived s.halfMicros (el + d) (min (answerPayload f).length x.inLength))).drop k)) := by
    unfold State.elapseAttempt
    rw [hx]
    simp only [hp]
    cases page <;> rfl
  have hxfer : (s.elapse d).xfer = (s.elapseAttempt d).xfer := rfl
  have hram : (s.elapse d).ram = (s.elapseAttempt d).ram := rfl
  rw [hxfer, hram, hattempt]
  cases page with
  | none => exact ⟨rfl, fun _ => rfl, nofun⟩
  | some a =>
    refine ⟨by simp, nofun, fun b hb => ?_⟩
    cases hb
    rfl

end

/-! ## The echo of a call (O48) -/

theorem State.endCall_sending {s : State} {x y : Transfer} {el el' n n' : Nat} {h0 h1 h0' h1' : Word} {pl payload : List Word}
    (heard : List BitTime) (hp : x.phase = .sending el h0 h1 n pl)
    (hy : (s.elapse (s.bitTimes (72 + 16 * n) - el)).xfer = some y) (hq : y.phase = .sending el' h0' h1' n' payload) :
    s.endCall heard x =
      (s.elapse (s.bitTimes (72 + 16 * n) - el)).echoEnd y h0' h1' payload
        (((s.elapse (s.bitTimes (72 + 16 * n) - el)).trunk y.trunk).judge (frameOnLine (frameWords h0' h1' payload))
          heard) := by
  unfold State.endCall
  rw [hp]
  refine (State.onTransfer_some hy _).trans ?_
  unfold State.judgeEcho
  rw [hq]

section

variable (s : State) (x : Transfer) (h0 h1 : Word) (payload : List Word)

theorem State.echoEnd_sent (h : x.kind = .broadcast ∨ x.kind = .sync) :
    s.echoEnd x h0 h1 payload .clean =
      (s.setTrunk x.trunk
        { s.trunk x.trunk with lastFrame := frameOnLine (frameWords h0 h1 payload) }).endAttempt x .sent none := by
  unfold State.echoEnd
  rcases h with h | h <;> rw [h]

theorem State.echoEnd_called (h : x.kind = .point ∨ x.kind = .probe) :
    s.echoEnd x h0 h1 payload .clean =
      { s.setTrunk x.trunk { s.trunk x.trunk with lastFrame := frameOnLine (frameWords h0 h1 payload) } with
        xfer := some { x with phase := .window s.answerWindow } } := by
  have hwindow (t : TrunkId) (k : Trunk) : (s.setTrunk t k).answerWindow = s.answerWindow := by cases t <;> rfl
  unfold State.echoEnd
  rcases h with h | h <;> rw [h] <;> dsimp only <;> rw [hwindow]

end

/-- Settles O48: the echo, and the words of the call as the line comes to them. -/
theorem echoDecidesTheAttempt : Obligations.EchoDecidesTheAttempt := by
  refine ⟨?echo, ?words⟩
  case echo =>
    rintro s₀ s u sent x y g el el' n h0 h1 h0' h1' pl payload rfl hx hg hp rfl hy hq rfl frame heard rfl
    have hexec : exec (.callEchoEnd heard) s₀ = .next (s₀.served.onTransfer (fun s => s.endCall heard)) := rfl
    rw [hexec, State.onTransfer_some hx, State.endCall_sending heard hp hy hq]
    have hwindow : (s₀.served.elapse (s₀.served.bitTimes (72 + 16 * n) - el)).answerWindow = g.answerWindow := by
      have hactive : (s₀.served.eng.elapse (s₀.served.bitTimes (72 + 16 * n) - el)).active = some g := hg
      rw [State.answerWindow, State.elapse_eng, hactive]
      rfl
    obtain ⟨phase, hphase⟩ := State.elapse_xfer hx (s₀.served.bitTimes (72 + 16 * n) - el)
    obtain rfl : y = { x with phase } := Option.some.inj (hy.symm.trans hphase)
    generalize s₀.served.elapse (s₀.served.bitTimes (72 + 16 * n) - el) = u at *
    refine ⟨fun h => ?_, fun h halone => ⟨fun hkind => ?_, fun hkind => ?_⟩⟩
    · rw [Trunk.judge_mismatch h]
      rfl
    · rw [Trunk.judge_clean h halone, State.echoEnd_sent u { x with phase } _ _ _ hkind]
    · rw [Trunk.judge_clean h halone, State.echoEnd_called u { x with phase } _ _ _ hkind, hwindow]
  case words =>
    rintro s x el n d h0 h1 pl hx hp
    obtain ⟨words, hwords, hlength, hquiet⟩ :=
      State.readPayload_words (wordsNeeded s.halfMicros (el + d) n - pl.length) s (s.sendPage x) pl
    have hneeded := wordsNeeded_le s.halfMicros (el + d) n
    refine ⟨words, ?_, by omega, fun i hi hpl => ?_, fun hwaits => ?_⟩
    · rw [State.elapse_sending hx hp, hwords]
    · rw [← lt_wordsNeeded s.halfMicros_pos hi]
      omega
    · obtain ⟨hram, hreads⟩ := hquiet hwaits
      refine ⟨(State.elapse_sending_ram d hx hp).trans hram, fun r page hvalues hpage i hi => ?_⟩
      have hsend : s.sendPage x = page := by
        rw [hpage, State.sendPage, hvalues]
        rfl
      rw [← hsend]
      exact hreads i (by omega)

/-! ## The sync marker of an answer (O49) -/

theorem State.answerTime_eq (s : State) (f : AnswerFrame) :
    s.answerTime f = s.bitTimes (8 + 16 * f.words.length + f.tailBits) :=
  congrArg s.bitTimes (Nat.add_assoc 8 (16 * f.words.length) f.tailBits).symm

theorem State.receptionTime_eq (s : State) (f : AnswerFrame) :
    s.receptionTime f = s.bitTimes (8 + min (16 * f.words.length + f.tailBits) 560) := rfl

/-- A frame that takes time moves the gap only when it ends. -/
theorem Trunk.hearFrame_eq (t : Trunk) {duration : Nat} (activity : Nat) (h : duration ≠ 0) :
    t.hearFrame duration activity =
      { t with quietHold := max t.quietHold (activity + 16), frameLeft := max t.frameLeft duration } := by
  rw [Trunk.hearFrame, if_neg h]
  rfl

section

variable {s : State} {x : Transfer} {f : AnswerFrame}

theorem State.detectSync_late {left : Nat} (hp : x.phase = .window left) (h : left = 0) :
    s.detectSync f x = s.hearLateAnswer x f := by
  unfold State.detectSync
  rw [hp]
  exact if_pos h

theorem State.detectSync_inTime {left : Nat} (hp : x.phase = .window left) (h : 0 < left) :
    s.detectSync f x = s.answerSync x f := by
  unfold State.detectSync
  rw [hp]
  exact if_neg (Nat.pos_iff_ne_zero.mp h)

/-- An answer to a READ or EXCHANGE point begins (R61, R104). -/
theorem State.answerSync_received {r : PointRecord} (hkind : x.kind = .point) (hvalues : x.values = some r)
    (hf : r.function ≠ .write) :
    s.answerSync x f =
      { (s.setTrunk x.trunk ((s.trunk x.trunk).hearFrame (s.receptionTime f) (s.answerTime f))).receptionStart x.point with
        xfer := some { x with phase := .receiving 0 f (some (r.inPage (!(s.point x.point).stable))) 0 } } := by
  unfold State.answerSync
  rw [hkind, hvalues]
  exact if_pos (PointFunction.usesIn_iff.mpr hf)

/-- Any other answer begins; its words go nowhere (R61). -/
theorem State.answerSync_unreceived (h : x.kind ≠ .point ∨ ∀ r, x.values = some r → r.function = .write) :
    s.answerSync x f =
      { s.setTrunk x.trunk ((s.trunk x.trunk).hearFrame (s.receptionTime f) (s.answerTime f)) with
        xfer := some { x with phase := .receiving 0 f none 0 } } := by
  unfold State.answerSync
  dsimp only
  split
  next r hkind hvalues =>
    refine if_neg fun hin => ?_
    rcases h with h | h
    · exact h hkind
    · exact PointFunction.usesIn_iff.mp hin (h r hvalues)
  next => rfl

end

/-- Settles O49: a marker in the window, and one after it. -/
theorem syncMarkerBeginsTheReception : Obligations.SyncMarkerBeginsTheReception := by
  rintro s₀ s on x line f left d ends rfl hx hp rfl rfl rfl rfl
  have hexec : exec (.answerSyncDetected line) s₀ =
      .next (s₀.served.onTransfer (fun s => s.detectSync (receiveFrame line))) := rfl
  rw [hexec, State.onTransfer_some hx]
  generalize s₀.served = s at *
  generalize receiveFrame line = f
  have hanswer : s.answerTime f ≠ 0 := fun h => by
    have := State.bitTimes_eq_zero.mp ((s.answerTime_eq f).symm.trans h)
    omega
  have hreception : s.receptionTime f ≠ 0 := fun h => by
    have := State.bitTimes_eq_zero.mp ((s.receptionTime_eq f).symm.trans h)
    omega
  refine ⟨fun h => ?_, fun h => ?_⟩
  · rw [State.detectSync_late hp h, State.hearLateAnswer, Trunk.hearFrame_eq _ _ hanswer, if_pos h, State.answerTime_eq]
  · rw [State.detectSync_inTime hp h, if_neg (Nat.pos_iff_ne_zero.mp h), ← State.answerTime_eq, ← State.receptionTime_eq,
      ← Trunk.hearFrame_eq _ _ hreception]
    refine ⟨fun r hkind hvalues hf => ?_, fun hother => congrArg _ (State.answerSync_unreceived hother)⟩
    have hpage : r.inPage (!(s.point x.point).stable) = if (s.point x.point).stable then r.inPage0 else r.inPage1 := by
      cases (s.point x.point).stable <;> rfl
    have hpoint (k : Trunk) : (s.setTrunk x.trunk k).point x.point = s.point x.point := by cases x.trunk <;> rfl
    rw [State.answerSync_received hkind hvalues hf, hpage, State.receptionStart, hpoint]

/-! ## The end of an answer (O50) -/

theorem State.endWindow_open {s : State} {x : Transfer} {left : Nat} (hx : s.xfer = some x) (hp : x.phase = .window left) :
    s.endWindow x = (s.elapse left).endAttempt { x with phase := .window 0 } .noAnswer none := by
  have hy := State.elapse_window hx hp left
  rw [Nat.sub_self] at hy
  unfold State.endWindow
  rw [hp]
  exact State.onTransfer_some hy _

theorem State.endReception_receiving {s : State} {x y : Transfer} {el n : Nat} {f : AnswerFrame} {page : Option Nat}
    (hx : s.xfer = some x) (hp : x.phase = .receiving el f page n)
    (hy : (s.elapse (s.receptionTime f - el)).xfer = some y) :
    s.endReception x = (s.elapse (s.receptionTime f - el)).answerEnd y f ∧ ∃ phase, y = { x with phase } := by
  obtain ⟨k, hphase⟩ := State.elapse_receiving hx hp (s.receptionTime f - el)
  obtain rfl := Option.some.inj (hy.symm.trans hphase)
  refine ⟨?_, _, rfl⟩
  unfold State.endReception
  rw [hp]
  exact State.onTransfer_some hy _

theorem Transfer.afterAnswer_kept (x : Transfer) (f : AnswerFrame) (h : x.kind ≠ .probe ∨ (classify x f).condition = none) :
    x.afterAnswer f = x := by
  refine if_neg ?_
  rintro ⟨hkind, hsome⟩
  rcases h with h | h
  · exact h hkind
  · rw [h] at hsome
    exact nomatch hsome

/-- What an attributable probe answer leaves in the record (R63). -/
theorem Transfer.afterAnswer_probe (x : Transfer) (f : AnswerFrame) (hkind : x.kind = .probe)
    (h : (classify x f).condition ≠ none) :
    x.afterAnswer f =
      { x with
        heardIdentity := (answerPayload f).getD 0 x.heardIdentity
        reportedToggle :=
          if (answerPayload f).length < 2 then x.reportedToggle else ((answerPayload f).getD 1 0).getLsbD 0 } := by
  have htoggle : (match (answerPayload f)[1]? with
      | some w => bitOf w 0
      | none => x.reportedToggle) =
      if (answerPayload f).length < 2 then x.reportedToggle else ((answerPayload f).getD 1 0).getLsbD 0 := by
    split
    next w hw =>
      have hlength : 1 < (answerPayload f).length := (List.getElem?_eq_some_iff.mp hw).1
      rw [if_neg (by omega), List.getD_eq_getElem?_getD, hw]
      rfl
    next hw => rw [if_pos (Nat.lt_succ_of_le (List.getElem?_eq_none_iff.mp hw))]
  refine (if_pos ⟨hkind, Option.isSome_iff_ne_none.mpr h⟩).trans ?_
  exact congrArg
    (fun toggle => { x with heardIdentity := (answerPayload f).getD 0 x.heardIdentity, reportedToggle := toggle }) htoggle

/-- Settles O50: the window, the end of the reception, and the words stored meanwhile. -/
theorem answerOrItsAbsenceEndsTheAttempt : Obligations.AnswerOrItsAbsenceEndsTheAttempt := by
  refine ⟨?window, ?received, fun s x left n hx hp => State.elapse_window hx hp n, ?stored⟩
  case window =>
    rintro s₀ s u x left rfl hx hp rfl
    have hexec : exec .answerWindowClose s₀ = .next (s₀.served.onTransfer State.endWindow) := rfl
    rw [hexec, State.onTransfer_some hx, State.endWindow_open hx hp]
  case received =>
    rintro s₀ s u x y el n f page rfl hx hp rfl hy
    have hexec : exec .answerReceived s₀ = .next (s₀.served.onTransfer State.endReception) := rfl
    obtain ⟨hend, phase, rfl⟩ := State.endReception_receiving hx hp hy
    rw [hexec, State.onTransfer_some hx, hend, State.answerEnd, ← State.receptionTime_eq]
    refine ⟨fun hkind => ?_, fun hkind hcondition => ?_, fun hkind hcondition => ?_⟩
    · rw [Transfer.afterAnswer_kept { x with phase } f (.inl hkind)]
    · rw [Transfer.afterAnswer_kept { x with phase } f (.inr hcondition), hcondition]
    · rw [Transfer.afterAnswer_probe { x with phase } f hkind hcondition]
  case stored =>
    rintro s x el k d most f page hx hp rfl
    obtain ⟨hxfer, hnone, hsome⟩ := State.elapse_stores d hx hp rfl
    have hlt {i : Nat} := lt_wordsArrived (h := s.halfMicros) (elapsed := el + d)
      (length := min (answerPayload f).length x.inLength) (i := i) s.halfMicros_pos
    have hwant := wordsArrived_le s.halfMicros (el + d) (min (answerPayload f).length x.inLength)
    generalize wordsArrived s.halfMicros (el + d) (min (answerPayload f).length x.inLength) = want at *
    refine ⟨_, hxfer, Nat.le_max_left _ _, by omega, fun i hi hk => ?_, hnone, fun a ha hwaits hwf hfit => ?_⟩
    · rw [← hlt hi]
      omega
    · rw [hsome a ha]
      by_cases hnew : k < want
      swap
      · have hwords : ((answerPayload f).take want).drop k = [] :=
          List.drop_eq_nil_of_le (by rw [List.length_take]; omega)
        rw [hwords]
        exact ⟨fun i h1 h2 => by omega, fun _ _ _ => rfl⟩
      have hlength : (((answerPayload f).take want).drop k).length = want - k := by
        rw [List.length_drop, List.length_take]
        omega
      obtain ⟨hwords, hothers⟩ := State.storeAnswer_ram (((answerPayload f).take want).drop k) (a := a + k)
        (s := { s with xfer := some { x with phase := .receiving (el + d) f page (max k want) } }) hwaits hwf
        (by rw [hlength]; omega)
      rw [hlength] at hothers
      refine ⟨fun i h1 h2 => ?_, fun b hb hout => hothers b hb (by omega)⟩
      have hplace : a + i = a + k + (i - k) := by omega
      have hword : (((answerPayload f).take want).drop k)[i - k]? = (answerPayload f)[i]? := by
        rw [List.getElem?_drop, Nat.add_sub_cancel' h1, List.getElem?_take_of_lt (by omega)]
      rw [hplace]
      refine hwords (i - k) _ ?_
      rw [hword, List.getD_eq_getElem?_getD, List.getElem?_eq_getElem (by omega)]
      rfl

end Sys2Proof.Machine
end

section
/-! What the host reads at each register, field by field (O17). -/

namespace Sys2Proof.Machine

open Sys2Proof.Safety

/-! ## The fields of a register's word -/

theorem regWord_toNat {n : Nat} (h : n < 65536) : (regWord n).toNat = n := by
  rw [regWord, BitVec.toNat_ofNat]
  exact Nat.mod_eq_of_lt h

theorem field_regWord {n : Nat} (h : n < 65536) (lo len : Nat) : field (regWord n) lo len = n / 2 ^ lo % 2 ^ len := by
  rw [field_eq, regWord_toNat h]

theorem bitOf_regWord {n i : Nat} {b : Bool} (h : n < 65536) (hb : n / 2 ^ i % 2 = flagBit b) : bitOf (regWord n) i = b := by
  rw [bitOf, ← BitVec.testBit_toNat, regWord_toNat h, Nat.testBit_eq_decide_div_mod_eq, hb]
  cases b <;> rfl

/-! ## The codes fit their fields -/

theorem flagBit_le (b : Bool) : flagBit b ≤ 1 := by cases b <;> decide

theorem trunkBit_le (t : TrunkId) : trunkBit t ≤ 1 := by cases t <;> decide

theorem bankField_le (bank : Option Bank) : bankField bank ≤ 2 := by
  cases bank with
  | none => decide
  | some bank => cases bank <;> decide

theorem EngineState.code_le (e : EngineState) : e.code ≤ 3 := by cases e <;> decide

theorem StopPoint.code_le (p : StopPoint) : p.code ≤ 2 := by cases p <;> decide

theorem HaltCause.code_le (c : HaltCause) : c.code ≤ 2 := by cases c <;> decide

theorem StationState.code_le (s : StationState) : s.code ≤ 4 := by cases s <;> decide

theorem TrunkState.code_le (s : TrunkState) : s.code ≤ 3 := by cases s <;> decide

theorem TransferKind.code_le (k : TransferKind) : k.code ≤ 4 := by cases k <;> decide

theorem ResultCode.code_lt (r : ResultCode) : r.code < 65536 := by cases r <;> decide

theorem OutcomeCode.code_lt (o : OutcomeCode) : o.code < 65536 := by cases o <;> decide

theorem HostError.code_lt (e : HostError) : e.code < 65536 := by cases e <;> decide

/-! ## The status words (Tables 11-2 to 11-4) -/

theorem Engine.statusWord_fields (e : Engine) :
    field e.statusWord 0 2 = e.state.code ∧ field e.statusWord 2 2 = e.stop.code ∧
    field e.statusWord 4 2 = e.halt.code ∧ field e.statusWord 8 2 = bankField (e.active.map (·.bank)) ∧
    field e.statusWord 10 2 = bankField (e.pending.map (·.bank)) := by
  have hstate := e.state.code_le
  have hstop := e.stop.code_le
  have hhalt := e.halt.code_le
  have hactive := bankField_le (e.active.map (·.bank))
  have hpending := bankField_le (e.pending.map (·.bank))
  unfold Engine.statusWord
  generalize e.state.code = state at *
  generalize bankField (e.active.map (·.bank)) = active at *
  generalize bankField (e.pending.map (·.bank)) = pending at *
  have hfits : state + 4 * e.stop.code + 16 * e.halt.code + 256 * active + 1024 * pending < 65536 := by omega
  simp only [field_regWord hfits]
  omega

theorem Engine.positionWord_fields {e : Engine} (hround : e.round < 64) (hslot : e.slot < 512) :
    field e.positionWord 10 6 = e.round ∧ field e.positionWord 0 9 = e.slot ∧
    bitOf e.positionWord 9 = (e.phase != .none) := by
  have hflag := flagBit_le (e.phase != .none)
  have hfits : 1024 * e.round + 512 * flagBit (e.phase != .none) + e.slot < 65536 := by omega
  unfold Engine.positionWord
  refine ⟨?_, ?_, bitOf_regWord hfits ?_⟩
  · rw [field_regWord hfits]
    omega
  · rw [field_regWord hfits]
    omega
  · omega

theorem transferStatusWord_fields {x : Transfer} (hattempts : x.attempts < 8) (hstation : x.station < 64) :
    bitOf (transferStatusWord (some x)) 15 = true ∧ field (transferStatusWord (some x)) 12 3 = x.kind.code ∧
    field (transferStatusWord (some x)) 9 3 = x.attempts ∧ field (transferStatusWord (some x)) 8 1 = trunkBit x.trunk ∧
    bitOf (transferStatusWord (some x)) 7 = x.toggle ∧
    bitOf (transferStatusWord (some x)) 6 = x.demandTag.isSome ∧ field (transferStatusWord (some x)) 0 6 = x.station := by
  have hkind := x.kind.code_le
  have htrunk := trunkBit_le x.trunk
  have htoggle := flagBit_le x.toggle
  have hdemand := flagBit_le x.demandTag.isSome
  have hone : flagBit true = 1 := rfl
  have hfits : 32768 + 4096 * x.kind.code + 512 * x.attempts + 256 * trunkBit x.trunk + 128 * flagBit x.toggle +
      64 * flagBit x.demandTag.isSome + x.station < 65536 := by omega
  unfold transferStatusWord
  dsimp only
  simp only [field_regWord hfits]
  exact ⟨bitOf_regWord hfits (by omega), by omega, by omega, by omega, bitOf_regWord hfits (by omega),
    bitOf_regWord hfits (by omega), by omega⟩

theorem transferPointWord_fields (x : Transfer) :
    field (transferPointWord (some x)) 0 8 = x.point.toNat ∧
    field (transferPointWord (some x)) 8 8 = (x.demandTag.getD 0).toNat := by
  have hpoint := x.point.isLt
  have htag := (x.demandTag.getD 0).isLt
  have hfits : 256 * (x.demandTag.getD 0).toNat + x.point.toNat < 65536 := by omega
  unfold transferPointWord
  dsimp only
  simp only [field_regWord hfits]
  omega

theorem State.demandStatusWord_none {s : State} (h : s.demandInFlight = none) (hlength : s.demands.length < 16) :
    field s.demandStatusWord 0 4 = s.demands.length ∧ bitOf s.demandStatusWord 7 = false ∧
    field s.demandStatusWord 8 8 = 0 := by
  have hzero : flagBit false = 0 := rfl
  have hfits : s.demands.length < 65536 := by omega
  unfold State.demandStatusWord
  rw [h]
  dsimp only
  simp only [field_regWord hfits]
  exact ⟨by omega, bitOf_regWord hfits (by omega), by omega⟩

theorem State.demandStatusWord_some {s : State} {d : Demand} (h : s.demandInFlight = some d)
    (hlength : s.demands.length < 16) :
    field s.demandStatusWord 0 4 = s.demands.length ∧ bitOf s.demandStatusWord 7 = true ∧
    field s.demandStatusWord 8 8 = d.tag.toNat := by
  have hone : flagBit true = 1 := rfl
  have htag := d.tag.isLt
  have hfits : 256 * d.tag.toNat + 128 + s.demands.length < 65536 := by omega
  unfold State.demandStatusWord
  rw [h]
  dsimp only
  simp only [field_regWord hfits]
  exact ⟨by omega, bitOf_regWord hfits (by omega), by omega⟩

theorem Station.stateWord_fields (r : Station) :
    field (r.windowWord 2) 0 3 = r.state.code ∧ field (r.windowWord 2) 4 1 = trunkBit r.currentTrunk ∧
    bitOf (r.windowWord 2) 5 = r.nextToggle ∧ bitOf (r.windowWord 2) 6 = r.mismatch := by
  have hstate := r.state.code_le
  have htrunk := trunkBit_le r.currentTrunk
  have htoggle := flagBit_le r.nextToggle
  have hmismatch := flagBit_le r.mismatch
  have hfits : r.state.code + 16 * trunkBit r.currentTrunk + 32 * flagBit r.nextToggle + 64 * flagBit r.mismatch <
      65536 := by omega
  unfold Station.windowWord
  dsimp only
  simp only [field_regWord hfits]
  exact ⟨by omega, by omega, bitOf_regWord hfits (by omega), bitOf_regWord hfits (by omega)⟩

theorem Station.countsWord_fields {r : Station} (hrun : r.failureRun < 16) (hconfirm : r.confirmCount < 8)
    (hprobe : r.probeCountdown < 256) :
    field (r.windowWord 3) 12 4 = r.failureRun ∧ field (r.windowWord 3) 8 3 = r.confirmCount ∧
    field (r.windowWord 3) 0 8 = r.probeCountdown := by
  have hfits : 4096 * r.failureRun + 256 * r.confirmCount + r.probeCountdown < 65536 := by omega
  unfold Station.windowWord
  dsimp only
  simp only [field_regWord hfits]
  omega

theorem Trunk.statusWord_fields {t : Trunk} (hfaults : t.faults < 8) (htraining : t.training < 8) :
    field t.statusWord 0 2 = t.state.code ∧ field t.statusWord 4 3 = t.faults ∧ field t.statusWord 8 3 = t.training := by
  have hstate := t.state.code_le
  have hfits : t.state.code + 16 * t.faults + 256 * t.training < 65536 := by omega
  unfold Trunk.statusWord
  simp only [field_regWord hfits]
  omega

theorem Ring.statusWord_fields {r : Ring} (h : r.published < 1024) :
    bitOf r.statusWord 15 = r.dropping ∧ field r.statusWord 0 11 = r.published := by
  have hdropping := flagBit_le r.dropping
  have hfits : 32768 * flagBit r.dropping + r.published < 65536 := by omega
  unfold Ring.statusWord
  rw [field_regWord hfits]
  exact ⟨bitOf_regWord hfits (by omega), by omega⟩

theorem PointEntry.flagsWord_bits (e : PointEntry) :
    bitOf (e.windowWord 0) 0 = e.stable ∧ bitOf (e.windowWord 0) 1 = e.transmit ∧ bitOf (e.windowWord 0) 2 = e.hold ∧
    bitOf (e.windowWord 0) 3 = e.pending ∧ bitOf (e.windowWord 0) 4 = e.committed ∧
    bitOf (e.windowWord 0) 5 = e.inFlight := by
  have hstable := flagBit_le e.stable
  have htransmit := flagBit_le e.transmit
  have hhold := flagBit_le e.hold
  have hpending := flagBit_le e.pending
  have hcommitted := flagBit_le e.committed
  have hflight := flagBit_le e.inFlight
  have hfits : flagBit e.stable + 2 * flagBit e.transmit + 4 * flagBit e.hold + 8 * flagBit e.pending +
      16 * flagBit e.committed + 32 * flagBit e.inFlight < 65536 := by omega
  unfold PointEntry.windowWord
  exact ⟨bitOf_regWord hfits (by omega), bitOf_regWord hfits (by omega), bitOf_regWord hfits (by omega),
    bitOf_regWord hfits (by omega), bitOf_regWord hfits (by omega), bitOf_regWord hfits (by omega)⟩

/-! ## A narrow value in a register -/

theorem toNat_setWidth_word {n : Nat} (v : BitVec n) (h : n ≤ 16) : (v.setWidth 16).toNat = v.toNat :=
  BitVec.toNat_setWidth_of_le h

/-- Settles O17: a read changes nothing else, and each register's word holds its fields. -/
theorem statusRegistersShowTheirFields : Obligations.StatusRegistersShowTheirFields := by
  refine ⟨fun s a r hr h hne => State.hostAccess_read_answers hr h hne, ?_⟩
  rintro s w hr hw
  have reads {a : HostAddress} {r : Register} (h : registerAt a.toNat = some r) (hne : r ≠ .timeLow) :
      w a = s.readRegister r := by
    rw [hw a, State.hostAccess_read_answers hr h hne]
    rfl
  refine ⟨?status, ?engine, ?position, ?noTransfer, ?transfer, ?demands, ?station, ?trunks, ?ring, ?point, ?command,
    ?port, ?counters, ?readIndex, ?writeIndex, ?dropped, ?ringSettings, ?settings⟩
  case status =>
    rw [reads (r := .cmdStatus) rfl nofun, State.readRegister]
    cases s.cmd.held <;> rfl
  case engine =>
    rw [reads (r := .engineStatus) rfl nofun]
    exact s.eng.statusWord_fields
  case position =>
    intro hround hslot
    rw [reads (r := .enginePosition) rfl nofun]
    obtain ⟨hr, hs, hp⟩ := Engine.positionWord_fields hround hslot
    exact ⟨hr, hs, by rw [State.readRegister, hp, bne_iff_ne]⟩
  case noTransfer =>
    intro hx
    rw [reads (r := .transferStatus) rfl nofun, reads (r := .transferPoint) rfl nofun, State.readRegister,
      State.readRegister, hx]
    exact ⟨rfl, rfl⟩
  case transfer =>
    intro x hx hattempts hstation
    rw [reads (r := .transferStatus) rfl nofun, reads (r := .transferPoint) rfl nofun, State.readRegister,
      State.readRegister, hx]
    obtain ⟨h1, h2, h3, h4, h5, h6, h7⟩ := transferStatusWord_fields hattempts hstation
    obtain ⟨hpoint, htag⟩ := transferPointWord_fields x
    refine ⟨h1, h2, h3, h4, h5, h6, h7, hpoint, fun h => ?_, fun tag h => ?_⟩
    · rw [htag, h]
      rfl
    · rw [htag, h, Option.getD_some]
  case demands =>
    intro hlength
    rw [reads (r := .demandStatus) rfl nofun, State.readRegister]
    refine ⟨?_, fun h => (State.demandStatusWord_none h hlength).2, fun d h => (State.demandStatusWord_some h hlength).2⟩
    cases h : s.demandInFlight with
    | none => exact (State.demandStatusWord_none h hlength).1
    | some d => exact (State.demandStatusWord_some h hlength).1
  case station =>
    rintro r rfl hrun hconfirm hprobe
    rw [reads (r := .stationWindow 0) rfl nofun, reads (r := .stationWindow 1) rfl nofun,
      reads (r := .stationWindow 2) rfl nofun, reads (r := .stationWindow 3) rfl nofun,
      reads (r := .stationWindow 4) rfl nofun, reads (r := .stationWindow 5) rfl nofun]
    simp only [State.readRegister]
    generalize s.station s.set.stationSelect.toNat = r at *
    obtain ⟨h1, h2, h3, h4⟩ := r.stateWord_fields
    obtain ⟨h5, h6, h7⟩ := Station.countsWord_fields hrun hconfirm hprobe
    exact ⟨rfl, regWord_toNat (Nat.lt_of_le_of_lt (trunkBit_le _) (by decide)), h1, h2, h3, h4, h5, h6, h7,
      toNat_setWidth_word _ (by decide), rfl⟩
  case trunks =>
    rintro k a (⟨rfl, rfl⟩ | ⟨rfl, rfl⟩) hfaults htraining
    · rw [reads (r := .trunkStatus .a) rfl nofun]
      exact Trunk.statusWord_fields hfaults htraining
    · rw [reads (r := .trunkStatus .b) rfl nofun]
      exact Trunk.statusWord_fields hfaults htraining
  case ring =>
    intro h
    rw [reads (r := .ringStatus) rfl nofun]
    exact Ring.statusWord_fields h
  case point =>
    rintro e - he hround
    have he : e = s.point (s.set.pointSelect.setWidth 8) := by rw [he, BitVec.ofNat_toNat]
    rw [reads (r := .pointWindow 0) rfl nofun, reads (r := .pointWindow 1) rfl nofun,
      reads (r := .pointWindow 2) rfl nofun, reads (r := .pointWindow 3) rfl nofun,
      reads (r := .pointWindow 4) rfl nofun]
    simp only [State.readRegister, ← he]
    obtain ⟨h0, h1, h2, h3, h4, h5⟩ := e.flagsWord_bits
    exact ⟨h0, h1, h2, h3, h4, h5, rfl, regWord_toNat e.lastOutcome.code_lt, rfl, regWord_toNat (by omega)⟩
  case command =>
    rw [reads (a := 0x0006) (r := .cmdResult) rfl nofun]
    exact ⟨reads (r := .command) rfl nofun, regWord_toNat s.cmd.result.code_lt, reads (r := .cmdDetail) rfl nofun,
      reads (r := .cmdArg 0) rfl nofun, reads (r := .cmdArg 1) rfl nofun, reads (r := .cmdArg 2) rfl nofun,
      reads (r := .cmdArg 3) rfl nofun⟩
  case port =>
    rw [reads (r := .irqCause) rfl nofun, reads (r := .irqEnable) rfl nofun, reads (r := .hostError) rfl nofun,
      reads (r := .hostErrorAddress) rfl nofun]
    exact ⟨toNat_setWidth_word _ (by decide), toNat_setWidth_word _ (by decide), regWord_toNat s.port.errorCode.code_lt,
      toNat_setWidth_word _ (by decide)⟩
  case counters =>
    rw [reads (a := 0x0025) (r := .gates) rfl nofun]
    exact ⟨reads (r := .sweepCount) rfl nofun, toNat_setWidth_word _ (by decide)⟩
  case readIndex =>
    intro h
    rw [reads (r := .ringReadIndex) rfl nofun]
    exact regWord_toNat (by omega)
  case writeIndex =>
    intro h
    rw [reads (r := .ringWriteIndex) rfl nofun]
    exact regWord_toNat (by omega)
  case dropped =>
    intro h
    rw [reads (r := .droppedCount) rfl nofun]
    exact regWord_toNat (by omega)
  case ringSettings =>
    exact ⟨reads (r := .ringBase) rfl nofun, reads (r := .ringSize) rfl nofun, reads (r := .ringWatermark) rfl nofun,
      reads (r := .eventEnable) rfl nofun⟩
  case settings =>
    exact ⟨reads (r := .planABase) rfl nofun, reads (r := .planBBase) rfl nofun, reads (r := .demandRetries) rfl nofun,
      reads (r := .occupancyGuard) rfl nofun, reads (r := .pointBase) rfl nofun, reads (r := .pointCount) rfl nofun,
      reads (r := .pointSelect) rfl nofun, reads (r := .stationSelect) rfl nofun, reads (r := .suspectAfter) rfl nofun,
      reads (r := .absentAfter) rfl nofun, reads (r := .confirmCount) rfl nofun, reads (r := .probeInterval) rfl nofun,
      reads (r := .trunkRate) rfl nofun, reads (r := .trainingTimeout) rfl nofun,
      reads (r := .trunkFaultLimit) rfl nofun⟩

end Sys2Proof.Machine
end

end
